-- ==== Sys2Proof/Word.lean ====
section
/-! DEFINITION. The word types of the Kazjer 4120 (spec 00_scope section 5, 01 R1 and R14, 03 R36, 07 R112). -/

namespace Sys2Proof

/-- One byte of a line, of a frame or of the reply record. -/
abbrev Byte := BitVec 8

/-- A line address, 0 to 2^34 − 1 (00 section 5.2). -/
abbrev Line := BitVec 34

/-- The 64 bytes of a line; byte n is bits 8n to 8n + 7, so word n is bits 32n to 32n + 31, little-endian as
00 section 5.2 says. -/
abbrev Data := BitVec 512

/-- A write byte mask: flag n is bit n (00 section 5.2). -/
abbrev Mask := BitVec 64

/-- A 32-bit word. -/
abbrev Word := BitVec 32

/-- A host tag, 0 to 31 (07 R112). -/
abbrev HostTag := Fin 32

/-- A downstream tag, 0 to 63 (07 R112). -/
abbrev DownTag := Fin 64

/-- A journal slot index, 0 to 2047; it wraps as 03 R36 says. -/
abbrev Slot := BitVec 11

/-- A stamp value: 0 is NONE, 1 to 15 an identifier (01 R14). -/
abbrev Ident := BitVec 4

/-- A sparse store: pairs of an address and an entry, addresses strictly rising. -/
abbrev Table (α : Type) := List (Nat × α)

end Sys2Proof
end

