-- ==== Sys2Proof/Config.lean ====
section
/-! DEFINITION. What the Kazjer 4120 fixes: the sizes of 00_scope section 2, and the two numbers of the model's own
(log 2 and log 9). No rule of the spec leaves a stored value undefined, so there is no free value here. -/

namespace Sys2Proof.Config

/-- Line addresses run from 0 to 2^34 − 1 (01 R1). -/
abbrev lineSpace : Nat := 2 ^ 34

/-- Stamps of one partition, and the greatest length of a region (01 R13, R1). -/
abbrev partitionSize : Nat := 32768

/-- The last stamp index (01 R13). -/
abbrev lastStamp : BitVec 18 := 262143#18

/-- Slots of the journal ring (03 R36). -/
abbrev ringSlots : Nat := 2048

/-- Epochs the stack holds (02 R18). -/
abbrev maxDepth : Nat := 4

/-- Identifiers an id set holds (02 R17). -/
abbrev maxIds : Nat := 4

/-- Events the queue holds (09 R146). -/
abbrev queueSize : Nat := 32

/-- Where the lost count stays (09 R147). -/
abbrev lostMax : Nat := 255

/-- Bytes of the longest frame (10 R153). -/
abbrev frameBytes : Nat := 24

/-- The epoch sequence counter's last value (02 R33). -/
abbrev lastSequence : BitVec 32 := 0xFFFFFFFF#32

/-- DESIGN CHOICE (log 2): scrubber visits the idle clock makes for each µs of a pass, so that the 262,144 visits
of a pass end within the 2.0 ms of 06 R105. -/
abbrev visitsPerTick : Nat := 132

/-- DESIGN CHOICE (log 9): micro-steps one command's consequences may take before the model stops. -/
def agendaBound : Nat := 1000000

end Sys2Proof.Config
end

