-- ==== Sys2Proof/Syntax.lean ====
section
/-! DEFINITION. The commands: one constructor of Instr for each row of spec/opcode_table.json. -/

namespace Sys2Proof

/-- A management frame after its command code: byte 1, and the bytes from byte 2 on, arguments first, then padding
(10 R153). -/
structure Frame where
  seq  : Byte
  tail : List Byte
  deriving DecidableEq, Repr

/-- The two control lines (10 R159). -/
inductive ControlLine
  | MARK_N
  | UNDO_N
  deriving DecidableEq, Repr

/-- What a read reply of the memory carries: data only with status OK (07 R112). -/
inductive ReadResult
  | OK (data : Data)
  | ERROR
  deriving DecidableEq, Repr

/-- What a write reply of the memory carries (07 R112). -/
inductive WriteResult
  | OK
  | ERROR
  deriving DecidableEq, Repr

/-- The commands the device takes, in the order of the table. -/
inductive Instr
  -- management frames, taken at the rising edge of CS_N (10 R153)
  | rpy (f : Frame)
  | sts (f : Frame)
  | rcf (f : Frame)
  | wcf (f : Frame)
  | rgi (f : Frame)
  | rgr (f : Frame)
  | rgm (f : Frame)
  | rgq (f : Frame)
  | mrk (f : Frame)
  | cmt (f : Frame)
  | rbk (f : Frame)
  | abn (f : Frame)
  | dsc (f : Frame)
  | epq (f : Frame)
  | jst (f : Frame)
  | jrq (f : Frame)
  | jrd (f : Frame)
  | evp (f : Frame)
  | wts (f : Frame)
  | wtq (f : Frame)
  | rls (f : Frame)
  | rlq (f : Frame)
  /-- `upstreamFirst`: which of the two link changes at the end of the reset is taken first (10 R162, log 10). -/
  | drs (f : Frame) (upstreamFirst : Bool)
  /-- A frame of `bits` received bits, of which `bytes` are the whole bytes received (10 R154, check 1). -/
  | badFrame (bits : Nat) (bytes : List Byte)
  | unknownCommand (code : Byte) (f : Frame)
  -- reset and control lines (10 R159 to R162)
  | powerOn
  | rstNReset
  /-- `upstreamFirst` as for `drs`. -/
  | resetEnd (upstreamFirst : Bool)
  /-- `high`: the level the line changes to. -/
  | controlLineLevelChange (line : ControlLine) (high : Bool)
  | markNFallingEdge
  | undoNFallingEdge
  | filterReArm (line : ControlLine)
  -- the links (07)
  | upstreamLinkDown
  | upstreamLinkUp
  | downstreamLinkDown
  | downstreamLinkUp
  | readRequest (tag : HostTag) (line : Line)
  | writeRequest (tag : HostTag) (line : Line) (mask : Mask) (data : Data)
  | readReply (tag : DownTag) (result : ReadResult)
  | writeReply (tag : DownTag) (result : WriteResult)
  | downstreamTimeout (tag : DownTag)
  | holdExpiry (tag : HostTag)
  | seenMarkExpiry (rule : Fin 2) (member : Fin 3)
  | scrubberVisit
  -- what the device's own blocks do (04, 05)
  | drainCompletion
  | rollbackEnd
  | captureDecision (tag : HostTag)
  | forwardReadIssue (tag : HostTag)
  | restoreWriteIssue
  | csNFallingEdge
  deriving DecidableEq, Repr

end Sys2Proof
end

