-- ==== Sys2Proof/Machine/State.lean ====
section
/-! DEFINITION. The state of the Kazjer 4120, block by block (spec 00 section 3), the reasons a step can stop, and
the state after reset. Enumerations carry the manual's own names. -/

namespace Sys2Proof.Machine

/-! ## Region table (01) -/

/-- Treatment of a region's traffic (01 R1). -/
inductive Mode
  | JOURNAL
  | FENCE
  | PASS
  deriving DecidableEq, Repr

/-- One slot of the region table (01 R1). -/
structure Region where
  installed : Bool
  base      : Line
  length    : Nat
  mode      : Mode
  /-- capture count, saturating (01 R12) -/
  count     : BitVec 32
  deriving DecidableEq, Repr

/-- A clear slot (01 R1, R16). -/
def Region.clear : Region := ⟨false, 0, 0, .PASS, 0⟩

/-! ## Epoch controller (02, 05) -/

/-- States of an epoch (02 section 2.2). -/
inductive EpochState
  | OPEN
  | DRAINING
  | RESTORING
  | HALTED
  deriving DecidableEq, Repr

/-- The closing operation a DRAINING epoch will perform (02 R17). -/
inductive Pending
  | COMMIT
  | ABANDON
  | ROLLBACK
  | DISCARD
  deriving DecidableEq, Repr

/-- Source of an epoch request (02 R24). -/
inductive Origin
  | MGMT
  | MARK_LINE
  | UNDO_LINE
  | RULE0
  | RULE1
  deriving DecidableEq, Repr

/-- The operation of an epoch request (02 R24). -/
inductive EpochOp
  | MRK
  | CMT
  | RBK
  | ABN
  | DSC
  deriving DecidableEq, Repr

/-- Refusal reasons (09 R145). -/
inductive Reason
  | BUSY
  | HALTED
  | EMPTY
  | DEPTH
  | NO_ID
  | SEQUENCE
  | LINK_DOWN
  | BROKEN
  | OPEN
  | OCCUPIED
  | OVERLAP
  deriving DecidableEq, Repr

/-- An epoch record (02 R17). `ids` has the epoch's own identifier first. -/
structure Epoch where
  sequence  : BitVec 32
  level     : Nat
  ids       : List Ident
  runStart  : Slot
  runLength : Nat
  state     : EpochState
  pending   : Option Pending
  broken    : Bool
  origin    : Origin
  restored  : Nat
  deriving DecidableEq, Repr

/-- The restore sequencer and the slot of its record in progress (05 R90). -/
inductive Sequencer
  | IDLE
  | PLACED (slot : Slot)
  | WRITING (slot : Slot)
  deriving DecidableEq, Repr

/-- The epoch controller. `stack` has the innermost epoch FIRST. `removedSome` is the model's own: the rollback in
progress has removed a record (05 R84 asks for it; log 20). -/
structure EpochController where
  stack         : List Epoch
  counter       : BitVec 32
  closingOrigin : Option Origin
  sequencer     : Sequencer
  removedSome   : Bool
  deriving DecidableEq, Repr

/-! ## Journal ring (03) -/

/-- States of a journal record (03 R39). -/
inductive RecordState
  | RESERVED
  | HELD
  | VOID
  | RESTORING
  deriving DecidableEq, Repr

/-- A journal record (03 R38). -/
structure Record where
  line          : Line
  region        : Fin 8
  captureId     : Ident
  epochSequence : BitVec 32
  state         : RecordState
  payload       : Option Data
  deriving DecidableEq, Repr

/-- The journal ring (03 R36, R47); `records` by slot index. -/
structure Journal where
  head     : Slot
  tail     : Slot
  full     : Bool
  records  : Table Record
  lowArmed : Bool
  deriving DecidableEq, Repr

/-! ## Identifier pool and stamp scrubber (06) -/

/-- An entry of the retiring list (06 R101). -/
structure Retiring where
  id            : Ident
  eligibleAfter : BitVec 16
  deriving DecidableEq, Repr

/-- The identifier pool (06 R101); both lists front first. -/
structure IdPool where
  free     : List Ident
  retiring : List Retiring
  deriving DecidableEq, Repr

/-- The stamp scrubber (06 R105). `started` is the model's own: when the pass in progress started (log 20). -/
structure Scrubber where
  sweeping : Bool
  position : BitVec 18
  pass     : BitVec 16
  started  : Nat
  deriving DecidableEq, Repr

/-! ## Write path (04) -/

/-- A host request's kind, with what only a WRITE carries (04 R54). -/
inductive Request
  | READ
  | WRITE (mask : Mask) (data : Data)
  deriving DecidableEq, Repr

/-- Progress of a request (04 R54). -/
inductive ContextState
  | HELD
  | QUEUED
  | CAPTURING
  | SPACE_WAIT
  | FORWARDED
  deriving DecidableEq, Repr

/-- A live request context (04 R54); its tag is its key in the table of contexts. -/
structure Context where
  request  : Request
  line     : Line
  state    : ContextState
  slot     : Option Slot
  oldStamp : Option Ident
  downTag  : Option DownTag
  deriving DecidableEq, Repr

/-- A step of a line's chain (04 R63): a host request, the restore step of a record, an orphaned access. -/
inductive Step
  | host (tag : HostTag)
  | restore (slot : Slot)
  | orphan (tag : DownTag)
  deriving DecidableEq, Repr

/-- Why a request is held (04 R58). -/
inductive HoldReason
  | OPERATION
  | SPACE
  deriving DecidableEq, Repr

/-- An entry of the hold list (04 R58). -/
structure HoldEntry where
  tag    : HostTag
  line   : Line
  reason : HoldReason
  expiry : Option Nat
  deriving DecidableEq, Repr

/-! ## Links and downstream port (07) -/

/-- A link state (07 R125). -/
inductive LinkState
  | DOWN
  | UP
  deriving DecidableEq, Repr

/-- Why a downstream request was issued (07 R117). -/
inductive Purpose
  | FORWARD_READ
  | FORWARD_WRITE
  | CAPTURE_READ
  | RESTORE_WRITE
  deriving DecidableEq, Repr

/-- Who receives a downstream request's outcome (07 R117). -/
inductive Owner
  | context (tag : HostTag)
  | sequencer
  | orphaned
  deriving DecidableEq, Repr

/-- A tracker entry (07 R117); its tag is its key. `slot` and `oldStamp` are for an orphaned CAPTURE_READ. -/
structure TrackerEntry where
  purpose  : Purpose
  owner    : Owner
  line     : Line
  expiry   : Nat
  slot     : Option Slot
  oldStamp : Option Ident
  deriving DecidableEq, Repr

/-- The downstream port (07 R117, R119, R122); `quarantine` gives each quarantined tag's line. -/
structure DownstreamPort where
  link       : LinkState
  tracker    : Table TrackerEntry
  quarantine : Table Line
  tagWait    : List Step
  deriving DecidableEq, Repr

/-- Statuses of a reply to the host (07 R113). -/
inductive HostStatus
  | OK
  | ERROR
  | FENCED
  | REFUSED
  | EXPIRED
  | PROTOCOL
  deriving DecidableEq, Repr

/-- The kind of a request or of its reply. -/
inductive Kind
  | READ
  | WRITE
  deriving DecidableEq, Repr

/-- A reply sent on the upstream link (07 R112). -/
structure HostReply where
  tag    : HostTag
  kind   : Kind
  status : HostStatus
  data   : Option Data
  deriving DecidableEq, Repr

/-- A request sent on the downstream link (07 R112). -/
inductive MemRequest
  | read (tag : DownTag) (line : Line)
  | write (tag : DownTag) (line : Line) (mask : Mask) (data : Data)
  deriving DecidableEq, Repr

/-! ## Watch unit (08) -/

/-- A watch entry (08 R131). -/
structure Watch where
  enabled : Bool
  line    : Line
  word    : Fin 16
  value   : Word
  mask    : Word
  deriving DecidableEq, Repr

/-- A member of an action rule with its seen mark: absent, or the moment it expires (08 R134). -/
structure Member where
  watch : Fin 4
  mark  : Option Nat
  deriving DecidableEq, Repr

/-- An action rule (08 R134). -/
structure Rule where
  enabled : Bool
  members : List Member
  window  : Nat
  action  : EpochOp
  once    : Bool
  deriving DecidableEq, Repr

/-- The watch unit (08). -/
structure WatchUnit where
  watches : Vector Watch 4
  rules   : Vector Rule 2
  deriving DecidableEq, Repr

/-! ## Event queue (09) -/

/-- The seventeen event kinds (09 R144), in the order of their codes. -/
inductive EventKind
  | OPENED
  | COMMITTED
  | ABANDONED
  | RESTORED
  | HALTED
  | BROKEN
  | JOURNAL_LOW
  | CAPTURE_FAILED
  | WRITE_REFUSED
  | EXPIRED
  | DOWN_TIMEOUT
  | DOWN_ERROR
  | LATE_RESPONSE
  | TAG_CONFLICT
  | RULE_FIRED
  | REFUSED
  | LINK_CHANGE
  deriving DecidableEq, Repr

/-- An event record (09 R143). -/
structure Event where
  sequence      : BitVec 16
  kind          : EventKind
  epochSequence : Option (BitVec 32)
  line          : Option Line
  detail        : BitVec 16
  deriving DecidableEq, Repr

/-- The event queue (09), oldest event first; `alert` is ALERT_N asserted (R150). -/
structure EventQueue where
  queue   : List Event
  lost    : Nat
  counter : BitVec 16
  alert   : Bool
  deriving DecidableEq, Repr

/-! ## Management port and control lines (10) -/

/-- The capture-full policy (04 R75, 10 R157). -/
inductive Policy
  | HOLD
  | REFUSE
  | BREAK
  deriving DecidableEq, Repr

/-- The configuration items (10 R157). -/
structure ConfigItems where
  capturePolicy : Policy
  holdLimit     : Nat
  downTimeout   : Nat
  lowWater      : Nat
  alertMask     : BitVec 17
  /-- LINE_ENABLE: bit 0 MARK_N, bit 1 UNDO_N -/
  lineEnable    : BitVec 2
  deriving DecidableEq, Repr

/-- Statuses of the reply record (10 R155). -/
inductive ReplyStatus
  | NONE
  | OK
  | REFUSED
  | BAD_ARGUMENT
  | BAD_FRAME
  | UNKNOWN
  deriving DecidableEq, Repr

/-- The reply record (10 R155). -/
structure ReplyRecord where
  sequenceEcho : Byte
  commandCode  : Byte
  status       : ReplyStatus
  reason       : Option Reason
  result       : Vector Byte 16
  deriving DecidableEq, Repr

/-- The reply record after reset (10 R155). -/
def ReplyRecord.initial : ReplyRecord := ⟨0, 0, .NONE, none, Vector.replicate 16 0⟩

/-- A frame in progress: the record that MISO shifts out, as it stood at the falling edge of CS_N, and whether the
frame will be taken at the rising edge (10 R155, R160). -/
structure OpenFrame where
  record : ReplyRecord
  taken  : Bool
  deriving DecidableEq, Repr

/-- The management port. -/
structure ManagementPort where
  reply : ReplyRecord
  frame : Option OpenFrame
  deriving DecidableEq, Repr

/-- States of a control-line filter (10 R159). -/
inductive FilterState
  | HIGH
  | FALLING
  | LOW
  | RISING
  deriving DecidableEq, Repr

/-- A control line: its level, its filter, and when the filter last changed (the model's own, log 20). -/
structure LineFilter where
  high  : Bool
  state : FilterState
  since : Nat
  deriving DecidableEq, Repr

/-- The input pins the device follows: both control lines and both link-status indications (10 R159, 07 R125). -/
structure Pins where
  mark           : LineFilter
  undo           : LineFilter
  upIndication   : Bool
  downIndication : Bool
  deriving DecidableEq, Repr

/-! ## The whole device -/

/-- The state. `now`, `upTx`, `downTx` and `pending` are the model's own: the clock in µs (log 1), the messages sent
on each link so far, oldest first (log 15), and the commands that wait, first in first out. -/
structure State where
  pending  : List Instr
  now      : Nat
  /-- held in reset (10 R160) -/
  held     : Bool
  pins     : Pins
  upLink   : LinkState
  regions  : Vector Region 8
  stamps   : Table Ident
  ec       : EpochController
  jr       : Journal
  ip       : IdPool
  ss       : Scrubber
  contexts : Table Context
  lht      : Table (List Step)
  holds    : List HoldEntry
  dp       : DownstreamPort
  wu       : WatchUnit
  eq       : EventQueue
  cfg      : ConfigItems
  mp       : ManagementPort
  upTx     : List HostReply
  downTx   : List MemRequest
  deriving DecidableEq, Repr

/-- Reasons a step faults. -/
inductive Fault
  /-- Raised by `settle`, for any command: its consequences inside one event took more than `Config.agendaBound`
  micro-steps. The device has no such limit; the 32 contexts, 4 epochs and 2,048 records bound the consequences far
  below it. Safe: the model stops. (log 9) -/
  | cascade
  deriving DecidableEq, Repr

/-- Reasons a step is refused. -/
inductive Refusal
  /-- Raised by `exec` alone, for a row without a meaning; no row is without one. Safe. -/
  | notModelled (mnemonic : String)
  deriving DecidableEq, Repr

/-- A watch after reset (08 R142). -/
def Watch.initial : Watch := ⟨false, 0, 0, 0, 0⟩

/-- An action rule after reset (08 R142). -/
def Rule.initial : Rule := ⟨false, [], 0, .MRK, false⟩

/-- The configuration items after reset (10 R157, R162). -/
def ConfigItems.initial : ConfigItems := ⟨.HOLD, 10000, 500, 256, 0x1FFFF#17, 3#2⟩

/-- A control line that is high with its filter at rest (10 R159; the level is the model's choice, log 11). -/
def LineFilter.initial : LineFilter := ⟨true, .HIGH, 0⟩

/-- The device at the end of a reset with both link-status indications down, both control lines high and no frame in
progress (10 R162 and the rules its table names; what is not the spec's is in log 11). -/
def State.reset : State where
  pending  := []
  now      := 0
  held     := false
  pins     := ⟨.initial, .initial, false, false⟩
  upLink   := .DOWN
  regions  := Vector.replicate 8 .clear
  stamps   := []
  ec       := ⟨[], 0, none, .IDLE, false⟩
  jr       := ⟨0, 0, false, [], true⟩
  ip       := ⟨[1, 2, 3, 4, 5, 6, 7, 8, 9, 10, 11, 12, 13, 14, 15], []⟩
  ss       := ⟨false, 0, 0, 0⟩
  contexts := []
  lht      := []
  holds    := []
  dp       := ⟨.DOWN, [], [], []⟩
  wu       := ⟨Vector.replicate 4 .initial, Vector.replicate 2 .initial⟩
  eq       := ⟨[], 0, 0, false⟩
  cfg      := .initial
  mp       := ⟨.initial, none⟩
  upTx     := []
  downTx   := []

end Sys2Proof.Machine
end

