-- ==== Sys2Proof/Machine/Table.lean ====
section
/-! DEFINITION. Reading and writing a sparse store: pairs of an address and an entry, addresses strictly rising. The
stamp table, the journal's slots, the contexts, the tracker, the quarantine and the line hazard table are held so. -/

namespace Sys2Proof.Machine

/-- The entry at an address. -/
def tableGet {α : Type} : Table α → Nat → Option α
  | [], _ => none
  | (k', v) :: r, k => if k = k' then some v else tableGet r k

/-- The store with an entry written at an address. -/
def tableSet {α : Type} : Table α → Nat → α → Table α
  | [], k, v => [(k, v)]
  | (k', v') :: r, k, v =>
    if k < k' then (k, v) :: (k', v') :: r
    else if k = k' then (k, v) :: r
    else (k', v') :: tableSet r k v

/-- The store with nothing at an address. -/
def tableErase {α : Type} : Table α → Nat → Table α
  | [], _ => []
  | (k', v') :: r, k => if k = k' then r else (k', v') :: tableErase r k

/-- The store with the entry at an address changed, if there is one. -/
def tableUpdate {α : Type} (t : Table α) (k : Nat) (f : α → α) : Table α :=
  match tableGet t k with
  | some v => tableSet t k (f v)
  | none => t

/-- The canonical form: addresses strictly rising. -/
def tableWf {α : Type} : Table α → Bool
  | [] => true
  | [_] => true
  | (k, _) :: (k', v') :: r => k < k' && tableWf ((k', v') :: r)

/-- A stamp as read: an unlisted one is NONE, the value every reset writes (01 R14, R16). -/
def stampGet (t : Table Ident) (k : Nat) : Ident :=
  match tableGet t k with
  | some v => v
  | none => 0

/-- A stamp written: NONE removes the entry, so that equal stamp tables are equal data. -/
def stampSet (t : Table Ident) (k : Nat) (v : Ident) : Table Ident :=
  if v = 0 then tableErase t k else tableSet t k v

/-- The canonical form of the stamp table: rising addresses within the table (01 R13), no NONE listed. -/
def stampsWf (t : Table Ident) : Bool :=
  tableWf t && t.all fun p => p.1 ≤ Config.lastStamp.toNat && p.2 != 0

/-- The canonical form of the journal's slots: rising indices, each a slot of the ring (03 R36). -/
def recordsWf (t : Table Record) : Bool :=
  tableWf t && t.all fun p => p.1 < Config.ringSlots

end Sys2Proof.Machine
end

