-- ==== Sys2Proof/Machine/Flags.lean ====
section
/-! DEFINITION. What the device computes from its state: counts, conditions and lookups. None of these changes
anything. -/

namespace Sys2Proof.Machine

/-! ## Regions and stamps (01) -/

/-- Whether a slot covers a line (01 R2). -/
def Region.covers (r : Region) (line : Line) : Bool :=
  r.installed && r.base.toNat ≤ line.toNat && line.toNat < r.base.toNat + r.length

/-- The region lookup: the slot whose region the line lies in (01 R2). -/
def lookup (s : State) (line : Line) : Option (Fin 8) :=
  (List.finRange 8).find? fun k => s.regions[k].covers line

/-- The mode found for a line; no slot is treated as PASS (01 R2). -/
def modeOf (s : State) (line : Line) : Mode :=
  match lookup s line with
  | some k => s.regions[k].mode
  | none => .PASS

/-- Whether a line lies in a region of mode JOURNAL (05 R80). -/
def isJournalLine (s : State) (line : Line) : Bool :=
  modeOf s line == .JOURNAL

/-- The index of a line's stamp, for the slot it lies in (01 R13). -/
def stampIndex (s : State) (k : Fin 8) (line : Line) : Nat :=
  k.val * Config.partitionSize + (line.toNat - s.regions[k].base.toNat)

/-- Whether two stretches of lines, given by base and length, share a line (01 R4, OVERLAP). -/
def stretchesMeet (base length base' length' : Nat) : Bool :=
  base < base' + length' && base' < base + length

/-! ## Epoch stack (02) -/

/-- The innermost epoch. -/
def innermost (s : State) : Option Epoch := s.ec.stack.head?

/-- The innermost epoch's state; none on an empty stack. -/
def innermostState (s : State) : Option EpochState := (innermost s).map (·.state)

/-- The innermost epoch's sequence, or absent (the epoch sequence field of most events, 09 R144). -/
def innermostSequence (s : State) : Option (BitVec 32) := (innermost s).map (·.sequence)

/-- The epoch at a level (02 R34). -/
def epochAt (s : State) (level : Nat) : Option Epoch :=
  s.ec.stack.find? fun e => e.level == level

/-- Whether an identifier is in the id set of an epoch on the stack (04 R74). -/
def inSomeIdSet (s : State) (i : Ident) : Bool :=
  s.ec.stack.any fun e => e.ids.contains i

/-- The refusal test of an epoch request (02 R27): the first reason that holds, in the order of its table. -/
def refusalOf (s : State) (op : EpochOp) : Option Reason :=
  if innermostState s = some .DRAINING ∨ innermostState s = some .RESTORING then some .BUSY
  else if (op = .MRK ∨ op = .CMT) ∧ innermostState s = some .HALTED then some .HALTED
  else if op ≠ .MRK ∧ s.ec.stack = [] then some .EMPTY
  else if op = .MRK ∧ Config.maxDepth ≤ s.ec.stack.length then some .DEPTH
  else if op = .MRK ∧ s.ip.free = [] then some .NO_ID
  else if op = .MRK ∧ s.ec.counter = Config.lastSequence then some .SEQUENCE
  else if op = .RBK ∧ s.dp.link = .DOWN then some .LINK_DOWN
  else none

/-! ## Journal ring (03) -/

/-- Slots in use (03 R36). -/
def usedCount (j : Journal) : Nat :=
  if j.full then Config.ringSlots else (j.head - j.tail).toNat

/-- Free slots (03 R36). -/
def freeCount (j : Journal) : Nat := Config.ringSlots - usedCount j

/-- Whether a slot lies in the used stretch (03 R36). -/
def slotInUse (j : Journal) (slot : Slot) : Bool := (slot - j.tail).toNat < usedCount j

/-- The record in a slot in use (03 R36, R38): what a slot out of use once held cannot be read. -/
def recordAt (j : Journal) (slot : Slot) : Option Record :=
  if slotInUse j slot then tableGet j.records slot.toNat else none

/-- Whether a slot lies in a run (02 R17). -/
def inRun (start : Slot) (length : Nat) (slot : Slot) : Bool := (slot - start).toNat < length

/-- The level of the epoch whose run holds a slot (03 R50). -/
def runLevel (s : State) (slot : Slot) : Nat :=
  match s.ec.stack.find? fun e => inRun e.runStart e.runLength slot with
  | some e => e.level
  | none => 0

/-- The records in one state (03 R49). -/
def countState (j : Journal) (st : RecordState) : Nat :=
  (j.records.filter fun p => p.2.state == st).length

/-! ## Tags and chains (04, 07) -/

/-- The lowest-numbered tag neither in use nor quarantined (07 R117, R118). -/
def freeTag (s : State) : Option DownTag :=
  (List.finRange 64).find? fun t =>
    (tableGet s.dp.tracker t.val).isNone && (tableGet s.dp.quarantine t.val).isNone

/-- A tag is at hand for a step: free, and, but for a step just taken off the tag-wait list, no other step waits
for one (04 R67, 07 R119, log 8). -/
def tagAtHand (s : State) (waited : Bool) : Bool :=
  (freeTag s).isSome && (waited || s.dp.tagWait.isEmpty)

/-- A live context. -/
def contextOf (s : State) (tag : HostTag) : Option Context := tableGet s.contexts tag.val

/-- The chain of a line; empty where the line has no entry (04 R63). -/
def chainOf (s : State) (line : Line) : List Step :=
  match tableGet s.lht line.toNat with
  | some c => c
  | none => []

/-- Whether a host request's access is outstanding (04 R63). -/
def contextActive (s : State) (tag : HostTag) : Bool :=
  match contextOf s tag with
  | some c => c.state == .CAPTURING || c.state == .FORWARDED
  | none => false

/-- Whether a step's access is outstanding (04 R63). -/
def stepActive (s : State) : Step → Bool
  | .host t => contextActive s t
  | .orphan _ => true
  | .restore slot => s.ec.sequencer == .WRITING slot

/-- Whether a host request is a write in SPACE_WAIT. -/
def inSpaceWait (s : State) (tag : HostTag) : Bool :=
  match contextOf s tag with
  | some c => c.state == .SPACE_WAIT
  | none => false

/-- Whether a step of a JOURNAL line's chain is one the drain waits for (05 R80). -/
def drainWaitsFor (s : State) : Step → Bool
  | .host t =>
    match contextOf s t with
    | some ⟨.WRITE _ _, _, st, _, _, _⟩ => st == .QUEUED || st == .CAPTURING || st == .FORWARDED
    | _ => false
  | .orphan t =>
    match tableGet s.dp.tracker t.val with
    | some e => e.purpose == .CAPTURE_READ || e.purpose == .FORWARD_WRITE
    | none => false
  | .restore _ => false

/-- The steps of a chain before its write in SPACE_WAIT: those behind it are not waited for (05 R80). -/
def beforeSpaceWait (s : State) (chain : List Step) : List Step :=
  chain.takeWhile fun st => match st with
    | .host t => !inSpaceWait s t
    | .restore _ => true
    | .orphan _ => true

/-- The drain set (05 R80), judged anew at each use: on each chain of a JOURNAL line, the writes and orphaned write
accesses that do not stand behind a write in SPACE_WAIT. -/
def drainSet (s : State) : List Step :=
  s.lht.flatMap fun p =>
    if isJournalLine s (BitVec.ofNat 34 p.1) then (beforeSpaceWait s p.2).filter (drainWaitsFor s) else []

/-- How a capture decision comes out (04 R69). -/
inductive CaptureNeed
  | none
  | capture (slot : Fin 8) (own : Ident) (sequence : BitVec 32)
  | full
  deriving DecidableEq, Repr

/-- The tests of the capture decision in their order (04 R69, 01 R11). -/
def captureNeed (s : State) (line : Line) : CaptureNeed :=
  match lookup s line with
  | none => .none
  | some k =>
    if s.regions[k].mode ≠ .JOURNAL then .none
    else match s.ec.stack with
      | [] => .none
      | e :: _ =>
        if e.broken then .none
        else if e.ids.contains (stampGet s.stamps (stampIndex s k line)) then .none
        else if 1 ≤ freeCount s.jr then .capture k (e.ids.headD 0) e.sequence
        else .full

/-! ## Event queue (09) -/

/-- The code of an event kind, also its flag's position in ALERT_MASK (09 R144). -/
def EventKind.code : EventKind → Nat
  | .OPENED => 0
  | .COMMITTED => 1
  | .ABANDONED => 2
  | .RESTORED => 3
  | .HALTED => 4
  | .BROKEN => 5
  | .JOURNAL_LOW => 6
  | .CAPTURE_FAILED => 7
  | .WRITE_REFUSED => 8
  | .EXPIRED => 9
  | .DOWN_TIMEOUT => 10
  | .DOWN_ERROR => 11
  | .LATE_RESPONSE => 12
  | .TAG_CONFLICT => 13
  | .RULE_FIRED => 14
  | .REFUSED => 15
  | .LINK_CHANGE => 16

/-- The condition under which ALERT_N is asserted (09 R150). -/
def alertCondition (queue : List Event) (lost : Nat) (mask : BitVec 17) : Bool :=
  queue.any (fun e => mask.getLsbD e.kind.code) || lost != 0

/-! ## Watch unit (08) -/

/-- Whether a mask covers word n: the flags of bytes 4n to 4n + 3 are all set (00 section 5.2). -/
def maskCovers (mask : Mask) (n : Fin 16) : Bool :=
  mask.extractLsb' (4 * n.val) 4 == 0xF#4

/-- Word n of a line, byte 4n least significant (00 section 5.2). -/
def wordOf (data : Data) (n : Fin 16) : Word := data.extractLsb' (32 * n.val) 32

/-- Whether a watch matches a write shown to the watch unit (08 R133). -/
def Watch.matchesWrite (w : Watch) (line : Line) (mask : Mask) (data : Data) : Bool :=
  w.enabled && w.line == line && maskCovers mask w.word && (wordOf data w.word &&& w.mask) == (w.value &&& w.mask)

/-- The watches that match a write (08 R133). -/
def matchingWatches (s : State) (line : Line) (mask : Mask) (data : Data) : List (Fin 4) :=
  (List.finRange 4).filter fun k => s.wu.watches[k].matchesWrite line mask data

/-- Whether a rule fires at a match of these watches: enabled, a member among them, every mark present (08 R136). -/
def Rule.fires (r : Rule) (matched : List (Fin 4)) : Bool :=
  r.enabled && r.members.any (fun m => matched.contains m.watch) && r.members.all (fun m => m.mark.isSome)

/-! ## Management port (10) -/

/-- Whether a frame command is taken: not while the device is held in reset, and not a frame that a reset met
(10 R155, R160); a frame whose CS_N edge was not commanded counts as begun (log 12). -/
def frameTaken (s : State) : Bool :=
  !s.held && match s.mp.frame with
    | some f => f.taken
    | none => true

end Sys2Proof.Machine
end

