-- ==== Sys2Proof/Machine/Operands.lean ====
section
/-! DEFINITION. The byte and bit layouts at the device's boundaries: argument fields of frames, results of the reply
record, event details, MISO (09 R145, 10 R155, R157, R158, R163, R164). -/

namespace Sys2Proof.Machine

/-! ## Bytes -/

/-- A number from bytes, the lowest offset least significant (10 R163). -/
def leNat : List Byte → Nat
  | [] => 0
  | b :: r => b.toNat + 256 * leNat r

/-- A number as n bytes, the lowest offset least significant (10 R163). -/
def leBytes : Nat → Nat → List Byte
  | 0, _ => []
  | n + 1, v => BitVec.ofNat 8 v :: leBytes n (v / 256)

/-- A flag as a bit. -/
def bit (b : Bool) : Nat := if b then 1 else 0

/-- A byte of flags and codes, given as their sum. -/
def codeByte (v : Nat) : Byte := BitVec.ofNat 8 v

/-- The argument field of n bytes at an offset counted from byte 2 of the frame (10 R163). -/
def argument (f : Frame) (offset n : Nat) : Nat := leNat ((f.tail.drop offset).take n)

/-- The 16 result bytes; those the command does not write read 0 (10 R155). -/
def resultOf (bytes : List Byte) : Vector Byte 16 := Vector.ofFn fun i => bytes.getD i.val 0

/-- An optional sequence or line as a number, 0 when absent. -/
def optionNat {n : Nat} (o : Option (BitVec n)) : Nat :=
  match o with
  | some v => v.toNat
  | none => 0

/-! ## Codes (09 R145, 10 R155, R157, R163) -/

/-- Mode codes (10 R163). -/
def Mode.code : Mode → Nat
  | .JOURNAL => 0
  | .FENCE => 1
  | .PASS => 2

/-- The mode an argument names; none where it names none (01 R3, R6; 10 R164). -/
def modeOfCode : Nat → Option Mode
  | 0 => some .JOURNAL
  | 1 => some .FENCE
  | 2 => some .PASS
  | _ => none

/-- Epoch states (10 R163). -/
def EpochState.code : EpochState → Nat
  | .OPEN => 0
  | .DRAINING => 1
  | .RESTORING => 2
  | .HALTED => 3

/-- Pending codes (10 R163). -/
def pendingCode : Option Pending → Nat
  | none => 0
  | some .COMMIT => 1
  | some .ABANDON => 2
  | some .ROLLBACK => 3
  | some .DISCARD => 4

/-- Record states; NONE is 0 (10 R163). -/
def RecordState.code : RecordState → Nat
  | .RESERVED => 1
  | .HELD => 2
  | .VOID => 3
  | .RESTORING => 4

/-- Origin codes (09 R145). -/
def Origin.code : Origin → Nat
  | .MGMT => 0
  | .MARK_LINE => 1
  | .UNDO_LINE => 2
  | .RULE0 => 3
  | .RULE1 => 4

/-- Operation and action codes (09 R145). -/
def EpochOp.code : EpochOp → Nat
  | .MRK => 0
  | .CMT => 1
  | .RBK => 2
  | .ABN => 3
  | .DSC => 4

/-- The action an RLS argument names: never DSC (08 R140). -/
def actionOfCode : Nat → Option EpochOp
  | 0 => some .MRK
  | 1 => some .CMT
  | 2 => some .RBK
  | 3 => some .ABN
  | _ => none

/-- Reason codes (09 R145). -/
def Reason.code : Reason → Nat
  | .BUSY => 1
  | .HALTED => 2
  | .EMPTY => 3
  | .DEPTH => 4
  | .NO_ID => 5
  | .SEQUENCE => 6
  | .LINK_DOWN => 7
  | .BROKEN => 8
  | .OPEN => 9
  | .OCCUPIED => 10
  | .OVERLAP => 11

/-- Status codes of the reply record (10 R163). -/
def ReplyStatus.code : ReplyStatus → Nat
  | .NONE => 0
  | .OK => 1
  | .REFUSED => 2
  | .BAD_ARGUMENT => 3
  | .BAD_FRAME => 4
  | .UNKNOWN => 5

/-- Purpose codes (09 R145). -/
def Purpose.code : Purpose → Nat
  | .FORWARD_READ => 0
  | .FORWARD_WRITE => 1
  | .CAPTURE_READ => 2
  | .RESTORE_WRITE => 3

/-- The codes of an EXPIRED event's reason (09 R145). -/
def HoldReason.code : HoldReason → Nat
  | .OPERATION => 0
  | .SPACE => 1

/-- Request kind codes (09 R145). -/
def Kind.code : Kind → Nat
  | .READ => 0
  | .WRITE => 1

/-- Capture-full policy codes (10 R157). -/
def Policy.code : Policy → Nat
  | .HOLD => 0
  | .REFUSE => 1
  | .BREAK => 2

/-- Link state codes (09 R145). -/
def LinkState.code : LinkState → Nat
  | .DOWN => 0
  | .UP => 1

/-- Why a restore failed: the cause of a HALTED event (05 R95, 09 R145). -/
inductive HaltCause
  | ERROR
  | TIMEOUT
  | LINK_DOWN
  deriving DecidableEq, Repr

/-- Cause codes of a HALTED event (09 R145). -/
def HaltCause.code : HaltCause → Nat
  | .ERROR => 0
  | .TIMEOUT => 1
  | .LINK_DOWN => 2

/-- The mark of a LATE_RESPONSE event (07 R120, R123; 09 R145). -/
inductive LateMark
  | QUARANTINED
  | STRAY
  | MISMATCH
  deriving DecidableEq, Repr

/-- Mark codes of a LATE_RESPONSE event (09 R145). -/
def LateMark.code : LateMark → Nat
  | .QUARANTINED => 0
  | .STRAY => 1
  | .MISMATCH => 2

/-! ## Event details (09 R145) -/

/-- 16 bits of detail. -/
def detail (v : Nat) : BitVec 16 := BitVec.ofNat 16 v

/-- OPENED: 0–2 level, 4–7 own identifier, 8–10 origin. -/
def openedDetail (level : Nat) (own : Ident) (o : Origin) : BitVec 16 :=
  detail (level + 16 * own.toNat + 256 * o.code)

/-- HALTED: 0–10 slot index, 12–13 cause. -/
def haltedDetail (slot : Slot) (c : HaltCause) : BitVec 16 := detail (slot.toNat + 4096 * c.code)

/-- EXPIRED: 0–4 host tag, 8 reason. -/
def expiredDetail (t : HostTag) (r : HoldReason) : BitVec 16 := detail (t.val + 256 * r.code)

/-- DOWN_TIMEOUT, DOWN_ERROR: 0–5 downstream tag, 8–9 purpose. -/
def downDetail (t : DownTag) (p : Purpose) : BitVec 16 := detail (t.val + 256 * p.code)

/-- LATE_RESPONSE: 0–5 downstream tag, 8–9 mark. -/
def lateDetail (t : DownTag) (m : LateMark) : BitVec 16 := detail (t.val + 256 * m.code)

/-- TAG_CONFLICT: 0–4 host tag, 8 request kind. -/
def conflictDetail (t : HostTag) (k : Kind) : BitVec 16 := detail (t.val + 256 * k.code)

/-- RULE_FIRED: 0 rule number, 8–10 action. -/
def firedDetail (r : Fin 2) (a : EpochOp) : BitVec 16 := detail (r.val + 256 * a.code)

/-- REFUSED: 0–2 operation, 4–6 origin, 8–11 reason. -/
def refusedDetail (op : EpochOp) (o : Origin) (r : Reason) : BitVec 16 :=
  detail (op.code + 16 * o.code + 256 * r.code)

/-- LINK_CHANGE: 0 link (0 UPSTREAM, 1 DOWNSTREAM), 8 new state. -/
def linkDetail (downstream : Bool) (st : LinkState) : BitVec 16 := detail (bit downstream + 256 * st.code)

/-! ## Results (10 section 10.7) -/

/-- RGQ: 0 bit 0 installed, bits 1–2 mode; 1–5 base; 6–7 length; 8–11 capture count. -/
def regionBytes (r : Region) : List Byte :=
  codeByte (bit r.installed + 2 * r.mode.code) :: (leBytes 5 r.base.toNat ++ leBytes 2 r.length ++ leBytes 4 r.count.toNat)

/-- The identifier at a place of an id set, 0 where there is none. -/
def idAt (ids : List Ident) (n : Nat) : Nat := (ids.getD n 0).toNat

/-- EPQ (02 R34; 10 section 10.7): all zero when no epoch is present. -/
def epochBytes : Option Epoch → List Byte
  | none => []
  | some e =>
    codeByte (1 + 2 * e.level + 16 * e.ids.length) ::
      (leBytes 2 (idAt e.ids 0 + 16 * idAt e.ids 1 + 256 * idAt e.ids 2 + 4096 * idAt e.ids 3) ++
       leBytes 4 e.sequence.toNat ++ leBytes 2 e.runStart.toNat ++ leBytes 2 e.runLength ++
       [codeByte (e.state.code + 4 * pendingCode e.pending + 32 * bit e.broken), codeByte e.origin.code] ++
       leBytes 2 e.restored)

/-- JST: 0–1 head; 2–3 tail; 4–5 used; 6–7 free; 8 reserved count; 9–10 void count (03 R49). -/
def journalBytes (j : Journal) : List Byte :=
  leBytes 2 j.head.toNat ++ leBytes 2 j.tail.toNat ++ leBytes 2 (usedCount j) ++ leBytes 2 (freeCount j) ++
    [codeByte (countState j .RESERVED)] ++ leBytes 2 (countState j .VOID)

/-- JRQ: the journal record metadata; all zero, state NONE, when the slot is not in use (03 R50). -/
def recordBytes (s : State) (slot : Slot) : List Byte :=
  match recordAt s.jr slot with
  | none => []
  | some r =>
    codeByte (1 + 2 * r.state.code + 16 * runLevel s slot) ::
      (leBytes 5 r.line.toNat ++ [codeByte (r.region.val + 16 * r.captureId.toNat)] ++ leBytes 4 r.epochSequence.toNat)

/-- JRD: 0 present; 1–4 word. Present for a HELD or RESTORING record (03 R51). -/
def payloadBytes (j : Journal) (slot : Slot) (word : Fin 16) : List Byte :=
  match recordAt j slot with
  | some ⟨_, _, _, _, .HELD, some d⟩ => codeByte 1 :: leBytes 4 (wordOf d word).toNat
  | some ⟨_, _, _, _, .RESTORING, some d⟩ => codeByte 1 :: leBytes 4 (wordOf d word).toNat
  | _ => []

/-- EVP: the event record layout, with the lost count as taken and the events remaining (09 R148, 10 R163). -/
def eventBytes (e : Option Event) (lost remaining : Nat) : List Byte :=
  match e with
  | some v =>
    codeByte (v.kind.code + 32 + 64 * bit v.epochSequence.isSome + 128 * bit v.line.isSome) ::
      (leBytes 2 v.sequence.toNat ++ leBytes 4 (optionNat v.epochSequence) ++ leBytes 5 (optionNat v.line) ++
       leBytes 2 v.detail.toNat ++ [codeByte lost, codeByte remaining])
  | none => List.replicate 14 0 ++ [codeByte lost, codeByte remaining]

/-- WTQ: 0 bit 0 enabled, bits 4–7 word; 1–5 line; 6–9 value; 10–13 mask. -/
def watchBytes (w : Watch) : List Byte :=
  codeByte (bit w.enabled + 16 * w.word.val) ::
    (leBytes 5 w.line.toNat ++ leBytes 4 w.value.toNat ++ leBytes 4 w.mask.toNat)

/-- The time to a mark's expiry in whole ms rounded up, at least 1 while the mark is present; 0 when absent
(08 R141; a mark whose expiry is reached and not yet taken reads 1, log 21). -/
def msToExpiry (now : Nat) : Option Nat → Nat
  | none => 0
  | some t => max 1 ((t - now + 999) / 1000)

/-- A field of the nth member of a rule, 0 where it has none. -/
def memberField (r : Rule) (n : Nat) (g : Member → Nat) : Nat :=
  match r.members[n]? with
  | some m => g m
  | none => 0

/-- RLQ: 0 bit 0 enabled, bit 1 once, bits 2–3 member count, bits 4–6 action; 1 members; 2–3 window; 4 mark present
flags; 5–10 times to expiry (08 R141). -/
def ruleBytes (now : Nat) (r : Rule) : List Byte :=
  [codeByte (bit r.enabled + 2 * bit r.once + 4 * r.members.length + 16 * r.action.code),
   codeByte (memberField r 0 (·.watch.val) + 4 * memberField r 1 (·.watch.val) + 16 * memberField r 2 (·.watch.val))] ++
  leBytes 2 r.window ++
  [codeByte (memberField r 0 (bit ·.mark.isSome) + 2 * memberField r 1 (bit ·.mark.isSome) +
    4 * memberField r 2 (bit ·.mark.isSome))] ++
  leBytes 2 (memberField r 0 (msToExpiry now ·.mark)) ++ leBytes 2 (memberField r 1 (msToExpiry now ·.mark)) ++
  leBytes 2 (memberField r 2 (msToExpiry now ·.mark))

/-- STS (10 R156 and section 10.7); the innermost state reads OPEN on an empty stack, the position 0 while IDLE. -/
def statusBytes (s : State) : List Byte :=
  let st := ((innermostState s).map EpochState.code).getD 0
  [codeByte (s.ec.stack.length + 8 * st + 32 * bit s.ss.sweeping + 64 * s.upLink.code + 128 * s.dp.link.code),
   codeByte (s.ip.free.length + 16 * s.ip.retiring.length)] ++
  leBytes 3 (if s.ss.sweeping then s.ss.position.toNat else 0) ++ leBytes 2 s.ss.pass.toNat ++
  [codeByte s.holds.length, codeByte s.dp.tracker.length, codeByte s.dp.quarantine.length]

/-- MRK: 0–3 sequence; 4 level; 5 own id (02 R28). -/
def openedBytes (e : Epoch) : List Byte :=
  leBytes 4 e.sequence.toNat ++ [codeByte e.level, codeByte (idAt e.ids 0)]

/-- CMT, RBK, ABN, DSC: 0–3 sequence; 4 level of the epoch acted on (02 R28). -/
def closingBytes (e : Epoch) : List Byte :=
  leBytes 4 e.sequence.toNat ++ [codeByte e.level]

/-! ## Configuration items (10 R157, R158) -/

/-- The value of an item by its code; none where no item has the code. -/
def itemValue (c : ConfigItems) : Nat → Option Nat
  | 0 => some c.capturePolicy.code
  | 1 => some c.holdLimit
  | 2 => some c.downTimeout
  | 3 => some c.lowWater
  | 4 => some c.alertMask.toNat
  | 5 => some c.lineEnable.toNat
  | _ => none

/-- The items with one written; none where the item or the value is one that WCF rejects (10 R158). -/
def writeItem (c : ConfigItems) (item value : Nat) : Option ConfigItems :=
  match item with
  | 0 =>
    match value with
    | 0 => some { c with capturePolicy := .HOLD }
    | 1 => some { c with capturePolicy := .REFUSE }
    | 2 => some { c with capturePolicy := .BREAK }
    | _ => none
  | 1 => if value ≤ 65535 then some { c with holdLimit := value } else none
  | 2 => if value ≠ 0 ∧ value ≤ 65535 then some { c with downTimeout := value } else none
  | 3 => if value ≤ Config.ringSlots then some { c with lowWater := value } else none
  | 4 => if value < 2 ^ 17 then some { c with alertMask := BitVec.ofNat 17 value } else none
  | 5 => if value < 2 ^ 2 then some { c with lineEnable := BitVec.ofNat 2 value } else none
  | _ => none

/-! ## The reply record on MISO (10 R155) -/

/-- The reply record's 20 bytes in the order of section 10.7. -/
def replyBytes (r : ReplyRecord) : List Byte :=
  [r.sequenceEcho, r.commandCode, codeByte r.status.code,
   codeByte (match r.reason with
     | some x => x.code
     | none => 0)] ++ r.result.toList

/-- Byte n of MISO during the frame in progress: the record as it stood at the falling edge of CS_N, then 0x00; none
while MISO is high-impedance, with no frame or in reset (10 R155, R160). -/
def misoByte (s : State) (n : Nat) : Option Byte :=
  if s.held then none
  else match s.mp.frame with
    | some f => some ((replyBytes f.record).getD n 0)
    | none => none

end Sys2Proof.Machine
end

