-- ==== Sys2Proof/Machine/Ops.lean ====
section
/-! DEFINITION. The named operations over the state. Each is one update of the blocks it changes, so that what it
leaves alone is plain; the tests that decide which operation is taken stand in Agenda.lean and in the families. -/

namespace Sys2Proof.Machine

/-! ## Events (09) -/

/-- ALERT_N evaluated against the queue, the lost count and the mask (09 R150). -/
def evaluateAlert (mask : BitVec 17) (q : EventQueue) : EventQueue :=
  { q with alert := alertCondition q.queue q.lost mask }

/-- An event offered to the queue: accepted at the back with the next sequence (09 R146), or, with 32 events held,
dropped and counted (09 R147). -/
def offerEvent (mask : BitVec 17) (kind : EventKind) (sequence : Option (BitVec 32)) (line : Option Line)
    (det : BitVec 16) (q : EventQueue) : EventQueue :=
  evaluateAlert mask
    (if q.queue.length < Config.queueSize then
      { q with queue := q.queue ++ [⟨q.counter, kind, sequence, line, det⟩], counter := q.counter + 1 }
    else { q with lost := min (q.lost + 1) Config.lostMax })

/-- An event posted by a block (09 R146). -/
def postEvent (kind : EventKind) (sequence : Option (BitVec 32)) (line : Option Line) (det : BitVec 16)
    (s : State) : State :=
  { s with eq := offerEvent s.cfg.alertMask kind sequence line det s.eq }

/-! ## Messages (07) -/

/-- The kind of a request. -/
def Request.kind : Request → Kind
  | .READ => .READ
  | .WRITE _ _ => .WRITE

/-- A reply sent to the host; one produced while the upstream link is DOWN is not sent (07 R116). -/
def sendReply (t : HostTag) (k : Kind) (status : HostStatus) (data : Option Data) (s : State) : State :=
  { s with upTx := if s.upLink = .UP then s.upTx ++ [⟨t, k, status, data⟩] else s.upTx }

/-- A request issued downstream: its tracker entry and its message (07 R118). -/
def issue (tag : DownTag) (purpose : Purpose) (owner : Owner) (line : Line) (m : MemRequest) (s : State) : State :=
  { s with
    dp := { s.dp with
      tracker := tableSet s.dp.tracker tag.val ⟨purpose, owner, line, s.now + s.cfg.downTimeout, none, none⟩ }
    downTx := s.downTx ++ [m] }

/-- A tracker entry removed: its tag is free (07 R120). -/
def removeEntry (tag : DownTag) (s : State) : State :=
  { s with dp := { s.dp with tracker := tableErase s.dp.tracker tag.val } }

/-- A tag quarantined, with its request's line (07 R122). -/
def quarantineTag (tag : DownTag) (line : Line) (s : State) : State :=
  { s with dp := { s.dp with quarantine := tableSet s.dp.quarantine tag.val line } }

/-- A quarantine ended (07 R123). -/
def endQuarantine (tag : DownTag) (s : State) : State :=
  { s with dp := { s.dp with quarantine := tableErase s.dp.quarantine tag.val } }

/-! ## Contexts, hold list, chains, tag-wait list (04, 07 R119) -/

/-- A context created (04 R56). -/
def createContext (t : HostTag) (r : Request) (line : Line) (s : State) : State :=
  { s with contexts := tableSet s.contexts t.val ⟨r, line, .QUEUED, none, none, none⟩ }

/-- A context changed. -/
def updateContext (t : HostTag) (g : Context → Context) (s : State) : State :=
  { s with contexts := tableUpdate s.contexts t.val g }

/-- A context gone with every field of it (04 R56). -/
def dropContext (t : HostTag) (s : State) : State :=
  { s with contexts := tableErase s.contexts t.val }

/-- The expiry an entry joining the hold list takes (04 R59). -/
def holdExpiryTime (s : State) : Option Nat :=
  if s.cfg.holdLimit = 0 then none else some (s.now + s.cfg.holdLimit)

/-- A request placed at the end of the hold list (04 R58, R59). -/
def joinHolds (t : HostTag) (line : Line) (r : HoldReason) (s : State) : State :=
  { s with holds := s.holds ++ [⟨t, line, r, holdExpiryTime s⟩] }

/-- A context's entry, if any, off the hold list. -/
def leaveHolds (t : HostTag) (s : State) : State :=
  { s with holds := s.holds.filter fun h => h.tag != t }

/-- A line's chain stored; an empty chain has no entry (04 R63). -/
def putChain (lht : Table (List Step)) (line : Line) (c : List Step) : Table (List Step) :=
  if c = [] then tableErase lht line.toNat else tableSet lht line.toNat c

/-- A step at the end of a line's chain (04 R63). -/
def joinChain (line : Line) (st : Step) (s : State) : State :=
  { s with lht := putChain s.lht line (chainOf s line ++ [st]) }

/-- A step out of a line's chain (04 R63). -/
def leaveChain (line : Line) (st : Step) (s : State) : State :=
  { s with lht := putChain s.lht line ((chainOf s line).filter fun x => x != st) }

/-- A step at the back of the tag-wait list (07 R119, host steps). -/
def waitForTag (st : Step) (s : State) : State :=
  { s with dp := { s.dp with tagWait := s.dp.tagWait ++ [st] } }

/-- A step at the front of the tag-wait list (07 R119, the restore step). -/
def waitFirst (st : Step) (s : State) : State :=
  { s with dp := { s.dp with tagWait := st :: s.dp.tagWait } }

/-- A step off the tag-wait list without a tag (07 R119). -/
def stopWaiting (st : Step) (s : State) : State :=
  { s with dp := { s.dp with tagWait := s.dp.tagWait.filter fun x => x != st } }

/-- A context ended: out of its chain, off the hold list and the tag-wait list, and gone (04 R56). -/
def discardContext (t : HostTag) (c : Context) (s : State) : State :=
  dropContext t (leaveHolds t (stopWaiting (.host t) (leaveChain c.line (.host t) s)))

/-- A context ended by its reply (04 R56, 07 R116). -/
def endContext (t : HostTag) (c : Context) (status : HostStatus) (data : Option Data) (s : State) : State :=
  discardContext t c (sendReply t c.request.kind status data s)

/-- A request held with reason OPERATION: out of its chain and off the tag-wait list if it was there, at the end of
the hold list with a new entry (04 R57, R65). -/
def holdRequest (t : HostTag) (c : Context) (s : State) : State :=
  joinHolds t c.line .OPERATION (leaveHolds t (stopWaiting (.host t) (leaveChain c.line (.host t)
    (updateContext t (fun x => { x with state := .HELD }) s))))

/-- A request QUEUED at the end of its line's chain (04 R57). -/
def queueRequest (t : HostTag) (line : Line) (s : State) : State :=
  joinChain line (.host t) (updateContext t (fun x => { x with state := .QUEUED }) s)

/-! ## Forwarding (04 R68, R71) -/

/-- A read issued downstream (04 R68). -/
def forwardRead (t : HostTag) (line : Line) (tag : DownTag) (s : State) : State :=
  updateContext t (fun x => { x with state := .FORWARDED, downTag := some tag })
    (issue tag .FORWARD_READ (.context t) line (.read tag line) s)

/-- A write issued downstream with its own mask and data; a write that retried leaves the hold list (04 R71, R73,
R76). -/
def forwardWrite (t : HostTag) (line : Line) (m : Mask) (d : Data) (tag : DownTag) (s : State) : State :=
  leaveHolds t (updateContext t (fun x => { x with state := .FORWARDED, downTag := some tag })
    (issue tag .FORWARD_WRITE (.context t) line (.write tag line m d) s))

/-! ## The journal ring (03) -/

/-- The low watermark test against the free count as it stands (03 R47); `line` is the new record's at a
reservation, and absent elsewhere (log 24). -/
def testLowWater (line : Option Line) (s : State) : State :=
  { s with
    jr := { s.jr with lowArmed := decide (s.cfg.lowWater ≤ freeCount s.jr) }
    eq := if s.jr.lowArmed ∧ freeCount s.jr < s.cfg.lowWater then
        offerEvent s.cfg.alertMask .JOURNAL_LOW (innermostSequence s) line (detail (freeCount s.jr)) s.eq
      else s.eq }

/-- The innermost epoch record changed. -/
def mapInnermost (g : Epoch → Epoch) (ec : EpochController) : EpochController :=
  { ec with stack := match ec.stack with
      | [] => []
      | e :: r => g e :: r }

/-- A new record in the slot at the head; the head advances, and the full flag is set where it meets the tail
(03 R40, steps 1, 3 and 4). -/
def appendRecord (r : Record) (j : Journal) : Journal :=
  { j with records := tableSet j.records j.head.toNat r, head := j.head + 1, full := j.head + 1 == j.tail }

/-- A journal record changed. -/
def updateRecord (slot : Slot) (g : Record → Record) (s : State) : State :=
  { s with jr := { s.jr with records := tableUpdate s.jr.records slot.toNat g } }

/-- The records of a run removed. -/
def withoutRun (start : Slot) (length : Nat) (records : Table Record) : Table Record :=
  records.filter fun p => !inRun start length (BitVec.ofNat 11 p.1)

/-- A run released from the tail (03 R43). -/
def releaseTail (e : Epoch) (j : Journal) : Journal :=
  { j with
    tail := j.tail + BitVec.ofNat 11 e.runLength
    full := j.full && e.runLength == 0
    records := withoutRun e.runStart e.runLength j.records }

/-- A run released from the head (03 R43). -/
def releaseHead (e : Epoch) (j : Journal) : Journal :=
  { j with
    head := j.head - BitVec.ofNat 11 e.runLength
    full := j.full && e.runLength == 0
    records := withoutRun e.runStart e.runLength j.records }

/-- The newest record removed by the restore sequencer, with or without a write (03 R44, 05 R92). -/
def removeNewest (written : Bool) (s : State) : State :=
  testLowWater none
    { s with
      jr := { s.jr with
        head := s.jr.head - 1
        full := false
        records := tableErase s.jr.records (s.jr.head - 1).toNat }
      ec := { mapInnermost
          (fun e => { e with runLength := e.runLength - 1, restored := e.restored + bit written }) s.ec with
        removedSome := true } }

/-- A capture count increased, staying at its last value (01 R12). -/
def countUp (c : BitVec 32) : BitVec 32 := if c = 0xFFFFFFFF#32 then c else c + 1

/-- A reservation made at a capture decision (03 R40, 04 R72). -/
def reserve (t : HostTag) (line : Line) (k : Fin 8) (own : Ident) (sequence : BitVec 32) (tag : DownTag)
    (s : State) : State :=
  let old := stampGet s.stamps (stampIndex s k line)
  let slot := s.jr.head
  let s1 := { s with
    jr := appendRecord ⟨line, k, own, sequence, .RESERVED, none⟩ s.jr
    ec := mapInnermost (fun e => { e with runLength := e.runLength + 1 }) s.ec
    stamps := stampSet s.stamps (stampIndex s k line) own }
  leaveHolds t (updateContext t
    (fun x => { x with state := .CAPTURING, slot := some slot, oldStamp := some old, downTag := some tag })
    (issue tag .CAPTURE_READ (.context t) line (.read tag line) (testLowWater (some line) s1)))

/-- A capture read answered OK: the record is HELD with the line's bytes and its region's count goes up
(03 R41, 01 R12). -/
def holdRecord (slot : Slot) (d : Data) (s : State) : State :=
  updateRecord slot (fun r => { r with state := .HELD, payload := some d })
    { s with regions := match tableGet s.jr.records slot.toNat with
        | some r => s.regions.set r.region { s.regions[r.region] with count := countUp s.regions[r.region].count }
        | none => s.regions }

/-- The stamp of a line after a failed capture: the old stamp where an epoch on the stack names it, else NONE
(04 R74). -/
def revertStamp (s : State) (line : Line) (old : Ident) : Table Ident :=
  match lookup s line with
  | some k => stampSet s.stamps (stampIndex s k line) (if inSomeIdSet s old then old else 0)
  | none => s.stamps

/-- A capture failed: record VOID, stamp reverted, CAPTURE_FAILED posted (03 R42, 04 R74). The host's ERROR is the
caller's. -/
def failCapture (slot : Slot) (line : Line) (old : Ident) (s : State) : State :=
  let sequence := (tableGet s.jr.records slot.toNat).map (·.epochSequence)
  postEvent .CAPTURE_FAILED sequence (some line) (detail slot.toNat)
    { updateRecord slot (fun r => { r with state := .VOID, payload := none }) s with
      stamps := revertStamp s line old }

/-! ## Identifiers (06) -/

/-- The eligible-after that identifiers retired now take: the pass that starts now, or the one after the pass in
progress (06 R104). -/
def eligibleAfter (s : State) : BitVec 16 := s.ss.pass + 1

/-- Identifiers to the back of the retiring list, in order; with the scrubber IDLE a pass starts (06 R103, R104). -/
def retire (eligible : BitVec 16) (ids : List Ident) (s : State) : State :=
  { s with
    ip := { s.ip with retiring := s.ip.retiring ++ ids.map fun i => ⟨i, eligible⟩ }
    ss := if ids ≠ [] ∧ !s.ss.sweeping then ⟨true, 0, s.ss.pass + 1, s.now⟩ else s.ss }

/-- Whether an identifier has an entry on the retiring list. -/
def isRetiring (s : State) (i : Ident) : Bool := s.ip.retiring.any fun r => r.id == i

/-- The stamp under the scrubber compared with the retiring list and cleared if it is on it (06 R106). -/
def visitStamp (s : State) : State :=
  let k := s.ss.position.toNat
  { s with stamps := if isRetiring s (stampGet s.stamps k) then stampSet s.stamps k 0 else s.stamps }

/-- Kept old stamps that hold a returning identifier become NONE (06 R108). -/
def clearKeptStamps (returning : List Ident) (s : State) : State :=
  { s with
    contexts := s.contexts.map fun p =>
      (p.1, if p.2.state = .CAPTURING ∧ p.2.oldStamp.any (returning.contains ·) then { p.2 with oldStamp := some 0 } else p.2)
    dp := { s.dp with tracker := s.dp.tracker.map fun p =>
      (p.1, if p.2.oldStamp.any (returning.contains ·) then { p.2 with oldStamp := some 0 } else p.2) } }

/-- The completion of a pass: eligible identifiers return to the back of the free list; the scrubber goes IDLE or
starts the next pass (06 R107, R108). -/
def completePass (s : State) : State :=
  let returning := (s.ip.retiring.filter fun r => r.eligibleAfter == s.ss.pass).map (·.id)
  let kept := s.ip.retiring.filter fun r => r.eligibleAfter != s.ss.pass
  clearKeptStamps returning
    { s with
      ip := ⟨s.ip.free ++ returning, kept⟩
      ss := if kept = [] then ⟨false, 0, s.ss.pass, s.ss.started⟩ else ⟨true, 0, s.ss.pass + 1, s.now⟩ }

/-! ## Opening and closing epochs (02, 05) -/

/-- The record an accepted MRK pushes (02 R31). -/
def newEpoch (s : State) (own : Ident) (o : Origin) : Epoch :=
  ⟨s.ec.counter + 1, s.ec.stack.length + 1, [own], s.jr.head, 0, .OPEN, none, false, o, 0⟩

/-- An accepted MRK: the front of the free list becomes the new epoch's identifier, OPENED is posted (02 R31 to R33).
With no free identifier nothing opens; R27 has refused that MRK. -/
def openEpoch (o : Origin) (s : State) : State :=
  match s.ip.free with
  | [] => s
  | own :: rest =>
    let e := newEpoch s own o
    postEvent .OPENED (some e.sequence) none (openedDetail e.level own o)
      { s with
        ec := { s.ec with stack := e :: s.ec.stack, counter := s.ec.counter + 1 }
        ip := { s.ip with free := rest } }

/-- The operation a closing request leaves pending (02 R29). -/
def pendingOf : EpochOp → Option Pending
  | .MRK => none
  | .CMT => some .COMMIT
  | .RBK => some .ROLLBACK
  | .ABN => some .ABANDON
  | .DSC => some .DISCARD

/-- An accepted CMT, ABN, RBK or DSC: the innermost epoch becomes DRAINING (02 R29, 05 R82). -/
def beginClosing (op : EpochOp) (o : Origin) (s : State) : State :=
  { s with ec := { mapInnermost (fun e => { e with
        state := .DRAINING
        pending := pendingOf op
        restored := if op = .RBK ∧ e.state = .OPEN then 0 else e.restored }) s.ec with
      closingOrigin := some o
      removedSome := s.ec.removedSome && !(op == .RBK && innermostState s == some .OPEN) } }

/-- The innermost epoch leaves the stack; the closing origin goes with pending (02 R18, 05 R82). -/
def popEpoch (s : State) : State :=
  { s with ec := { s.ec with stack := s.ec.stack.tail, closingOrigin := none } }

/-- A level-1 commit (05 R85). -/
def commitOuter (e : Epoch) (s : State) : State :=
  postEvent .COMMITTED (some e.sequence) none 0
    (popEpoch (retire (eligibleAfter s) e.ids (testLowWater none { s with jr := releaseTail e s.jr })))

/-- The parent after a commit merge: the child's run joined, and its identifiers where both sets hold four or fewer
(05 R86, steps 1 and 2). -/
def mergedParent (e p : Epoch) : Epoch :=
  { p with
    runLength := p.runLength + e.runLength
    ids := if p.ids.length + e.ids.length ≤ Config.maxIds then p.ids ++ e.ids else p.ids }

/-- The child's identifiers that retire at a commit merge (05 R86, step 2). -/
def mergeRetires (e p : Epoch) : List Ident :=
  if p.ids.length + e.ids.length ≤ Config.maxIds then [] else e.ids

/-- A commit merge of the innermost epoch into its parent (05 R86). -/
def commitMerge (e p : Epoch) (s : State) : State :=
  postEvent .COMMITTED (some e.sequence) none (p.sequence.setWidth 16)
    (retire (eligibleAfter s) (mergeRetires e p)
      { s with ec := mapInnermost (fun _ => mergedParent e p) (popEpoch s).ec })

/-- The innermost epoch abandoned: run released from the tail at level 1, from the head above it (05 R87). -/
def abandonInnermost (eligible : BitVec 16) (s : State) : State :=
  match s.ec.stack with
  | [] => s
  | e :: rest =>
    postEvent .ABANDONED (some e.sequence) none (detail e.runLength)
      (popEpoch (retire eligible e.ids (testLowWater none
        { s with jr := if rest = [] then releaseTail e s.jr else releaseHead e s.jr })))

/-- Every epoch abandoned, innermost first, with one eligible-after (05 R88, 06 R103). -/
def discardAll (s : State) : State :=
  s.ec.stack.foldl (fun t _ => abandonInnermost (eligibleAfter s) t) s

/-- A rollback refused because its epoch is broken (05 R89). -/
def refuseRollback (e : Epoch) (s : State) : State :=
  postEvent .REFUSED (some e.sequence) none (refusedDetail .RBK (s.ec.closingOrigin.getD .MGMT) .BROKEN)
    { s with ec := { mapInnermost (fun x => { x with state := .OPEN, pending := none }) s.ec with closingOrigin := none } }

/-- The innermost epoch enters RESTORING (05 R89). -/
def startRestore (s : State) : State :=
  { s with ec := { mapInnermost (fun x => { x with state := .RESTORING, pending := none }) s.ec with closingOrigin := none } }

/-- The end of a rollback whose run is empty (05 R93). -/
def endRollback (e : Epoch) (s : State) : State :=
  let s1 := retire (eligibleAfter s) e.ids (popEpoch s)
  postEvent .RESTORED (some e.sequence) none (detail e.restored) { s1 with ec := { s1.ec with sequencer := .IDLE } }

/-- Every epoch on the stack broken (02 R23, 04 R78). -/
def breakAll (s : State) : State :=
  { s with ec := { s.ec with stack := s.ec.stack.map fun e => { e with broken := true } } }

/-- The line of the record in a slot. -/
def recordLine (s : State) (slot : Slot) : Line :=
  match tableGet s.jr.records slot.toNat with
  | some r => r.line
  | none => 0

/-- A restore step placed ahead of every step of its line that is not active (04 R64). -/
def placeAhead (s : State) (slot : Slot) (chain : List Step) : List Step :=
  match chain with
  | [] => [.restore slot]
  | c :: r => if stepActive s c then c :: .restore slot :: r else .restore slot :: c :: r

/-- A step that a restore step overtakes leaves the tag-wait list (07 R119). -/
def overtaken (s : State) (chain : List Step) : List Step :=
  match chain with
  | [] => s.dp.tagWait
  | c :: _ => if stepActive s c then s.dp.tagWait else s.dp.tagWait.filter fun x => x != c

/-- The sequencer places its step (04 R64, 05 R90). -/
def placeRestore (slot : Slot) (line : Line) (s : State) : State :=
  { s with
    ec := { s.ec with sequencer := .PLACED slot }
    lht := putChain s.lht line (placeAhead s slot (chainOf s line))
    dp := { s.dp with tagWait := overtaken s (chainOf s line) } }

/-- The restore write issued: a full mask and the record's payload (05 R91). -/
def issueRestore (slot : Slot) (line : Line) (d : Data) (tag : DownTag) (s : State) : State :=
  let s1 := updateRecord slot (fun r => { r with state := .RESTORING })
    (issue tag .RESTORE_WRITE .sequencer line (.write tag line (BitVec.allOnes 64) d) s)
  { s1 with ec := { s1.ec with sequencer := .WRITING slot } }

/-- Contexts answered FENCED one after another (05 R96). -/
def fenceAll (tags : List HostTag) (s : State) : State :=
  tags.foldl (fun t h => match contextOf t h with
    | some c => endContext h c .FENCED none t
    | none => t) s

/-- The hold list's requests for JOURNAL lines, in list order (05 R96, step 1). -/
def heldOnJournal (s : State) : List HostTag :=
  (s.holds.filter fun h => isJournalLine s h.line).map (·.tag)

/-- The host requests that stand in chains of JOURNAL lines and are not active (05 R96, step 2); lines ascending
(log 14). -/
def inactiveOnJournal (s : State) : List HostTag :=
  s.lht.flatMap fun p =>
    if isJournalLine s (BitVec.ofNat 34 p.1) then
      p.2.filterMap fun st => match st with
        | .host t => if contextActive s t then none else some t
        | .restore _ => none
        | .orphan _ => none
    else []

/-- The entry actions of HALTED (05 R96). -/
def enterHalted (s : State) : State :=
  let s1 := fenceAll (heldOnJournal s) s
  fenceAll (inactiveOnJournal s1) s1

/-- A failed restore: record HELD, step gone, sequencer IDLE, epoch HALTED with its entry actions, HALTED posted
(05 R95). -/
def failRestore (cause : HaltCause) (slot : Slot) (s : State) : State :=
  let line := recordLine s slot
  let s1 := stopWaiting (.restore slot) (leaveChain line (.restore slot)
    (updateRecord slot (fun r => { r with state := .HELD }) s))
  let s2 := enterHalted { s1 with
    ec := { mapInnermost (fun e => { e with state := .HALTED }) s1.ec with sequencer := .IDLE } }
  postEvent .HALTED (innermostSequence s2) (some line) (haltedDetail slot cause) s2

/-! ## Watch unit (08) -/

/-- The seen marks of the members whose watches matched, set to expire one window from now (08 R135). -/
def setMarks (matched : List (Fin 4)) (s : State) : State :=
  { s with wu := { s.wu with rules := s.wu.rules.map fun r =>
      if r.enabled then
        { r with members := r.members.map fun m =>
            if matched.contains m.watch then { m with mark := some (s.now + 1000 * r.window) } else m }
      else r } }

/-- A rule with every mark absent. -/
def Rule.unmarked (r : Rule) : Rule := { r with members := r.members.map fun m => { m with mark := none } }

/-- The rule's own changes at its firing: marks absent, disabled if once is set (08 R136, steps 1 and 2). -/
def disarmRule (k : Fin 2) (s : State) : State :=
  let r := { s.wu.rules[k].unmarked with enabled := s.wu.rules[k].enabled && !s.wu.rules[k].once }
  { s with wu := { s.wu with rules := s.wu.rules.set k r } }

/-- The origin of a rule's requests (08 R134). -/
def ruleOrigin (k : Fin 2) : Origin := if k = 0 then .RULE0 else .RULE1

/-! ## Links, reset and the management port (07 R125, 10) -/

/-- The upstream link changes to UP (07 R125). -/
def upstreamUp (s : State) : State :=
  postEvent .LINK_CHANGE none none (linkDetail false .UP) { s with upLink := .UP }

/-- The downstream link changes to UP (07 R125, R129). -/
def downstreamUp (s : State) : State :=
  postEvent .LINK_CHANGE none none (linkDetail true .UP) { s with dp := { s.dp with link := .UP } }

/-- A filter as a reset's end starts it (10 R159). -/
def LineFilter.restart (f : LineFilter) (now : Nat) : LineFilter :=
  { f with state := if f.high then .HIGH else .LOW, since := now }

/-- Every item of state at its value after reset (10 R162). The inputs, the clock, the sent messages and the queue of
commands are not the device's to reset (log 11, log 15); a frame in progress will not be taken (10 R160, log 13). -/
def resetDevice (hold : Bool) (s : State) : State :=
  { State.reset with
    pending := s.pending
    now := s.now
    held := hold
    pins := { s.pins with mark := s.pins.mark.restart s.now, undo := s.pins.undo.restart s.now }
    mp := ⟨.initial, s.mp.frame.map fun f => { f with taken := false }⟩
    upTx := s.upTx
    downTx := s.downTx }

/-- A link whose indication shows up changes to UP at the end of a reset (10 R162). -/
def upIfShown (downstream : Bool) (s : State) : State :=
  if downstream then (if s.pins.downIndication then downstreamUp s else s)
  else (if s.pins.upIndication then upstreamUp s else s)

/-- The end of a reset: the filters start from the levels, links shown up come up in the order given (10 R162,
log 10). -/
def endReset (upstreamFirst : Bool) (s : State) : State :=
  upIfShown upstreamFirst (upIfShown (!upstreamFirst)
    { s with
      held := false
      pins := { s.pins with mark := s.pins.mark.restart s.now, undo := s.pins.undo.restart s.now } })

/-- CS_N rises: the frame is over. -/
def closeFrame (s : State) : State := { s with mp := { s.mp with frame := none } }

/-- The reply record written (10 R155). -/
def writeRecord (code sequence : Byte) (status : ReplyStatus) (reason : Option Reason) (result : List Byte)
    (s : State) : State :=
  { s with mp := { s.mp with reply := ⟨sequence, code, status, reason, resultOf result⟩ } }

end Sys2Proof.Machine
end

