-- ==== Sys2Proof/Machine/Agenda.lean ====
section
/-! DEFINITION. What one event carries with it. The rules put a front reached, a tag handed out, a rule fired, a
drain completed and a restore taken up inside the event that brings them about (04 R57, R67; 05 R81, R84, R90, R92;
07 R119; 08 R136; 95). An event's own changes leave an agenda of such tasks; `settle` performs them, a task's own
consequences before the tasks behind it (log 6, log 7). -/

namespace Sys2Proof.Machine

/-- A consequence still to be taken in the event in progress. -/
inductive Task
  /-- the front step of a line's chain acts, if it has still to (04 R65 to R68, 05 R91) -/
  | front (line : Line)
  /-- a request goes through intake (04 R57) -/
  | intake (tag : HostTag)
  /-- a write has been issued and is shown to the watch unit (08 R132) -/
  | shown (line : Line) (mask : Mask) (data : Data)
  /-- a rule that a write has made fire carries out its steps (08 R136) -/
  | fire (rule : Fin 2) (line : Line)
  /-- an epoch request reaches the epoch controller (02 R24) -/
  | request (op : EpochOp) (origin : Origin)
  /-- a DRAINING epoch's drain set is judged (05 R81) -/
  | drain
  /-- the restore sequencer takes up the newest record (05 R90) -/
  | takeUp
  /-- the writes in SPACE_WAIT retry; `offer`: slots were released (05 R84, step 2) -/
  | spaceRetries (offer : Bool)
  /-- one write in SPACE_WAIT retries (04 R76) -/
  | retry (tag : HostTag) (offer : Bool)
  /-- the hold list's OPERATION entries are released (05 R84, step 3) -/
  | holdRelease
  /-- one released request re-enters intake (04 R61) -/
  | reenter (tag : HostTag)
  /-- freed tags are handed to the steps that wait (07 R119) -/
  | handOut
  deriving DecidableEq, Repr

/-- A state with the tasks that come of it. -/
abbrev Done := State × List Task

/-- What follows the end of a closing operation (05 R84, steps 2 and 3; the drain of an epoch that a rule has closed
meanwhile is judged again). DESIGN CHOICE (log 25): where a rule that one of these writes fires changes the stack, the
retries and releases after it meet the stack as it then stands (04 R57, R76), not as step 1 left it (04 R61, 05 R84). -/
def closingEnd (released : Bool) : List Task := [.spaceRetries released, .holdRelease, .drain]

/-! ## The front of a chain (04 R65 to R69) -/

/-- A write that needs a capture meets a full journal (04 R75, R77, R78). -/
def captureFull (t : HostTag) (c : Context) (m : Mask) (d : Data) (tag : DownTag) (s : State) : Done :=
  match s.cfg.capturePolicy with
  | .HOLD =>
    if c.state = .SPACE_WAIT then (s, [])
    else (joinHolds t c.line .SPACE (updateContext t (fun x => { x with state := .SPACE_WAIT }) s), [])
  | .REFUSE =>
    (postEvent .WRITE_REFUSED (innermostSequence s) (some c.line) (detail 1) (endContext t c .REFUSED none s),
     [.front c.line])
  | .BREAK =>
    (forwardWrite t c.line m d tag
      (postEvent .BROKEN (innermostSequence s) (some c.line) (detail s.ec.stack.length) (breakAll s)),
     [.shown c.line m d])

/-- The capture decision of a non-empty write with a tag at hand (04 R69). -/
def decideCapture (t : HostTag) (c : Context) (m : Mask) (d : Data) (tag : DownTag) (s : State) : Done :=
  match captureNeed s c.line with
  | .none => (forwardWrite t c.line m d tag s, [.shown c.line m d])
  | .capture k own sequence => (reserve t c.line k own sequence tag s, [])
  | .full => captureFull t c m d tag s

/-- A request that needs an access and has a tag (04 R67 to R69). -/
def accessMemory (t : HostTag) (c : Context) (tag : DownTag) (s : State) : Done :=
  match c.request with
  | .READ => (forwardRead t c.line tag s, [])
  | .WRITE m d => decideCapture t c m d tag s

/-- A request with an empty mask (04 R66). -/
def emptyMask (r : Request) : Bool :=
  match r with
  | .READ => false
  | .WRITE m _ => m == 0

/-- A host request at the front of its chain, QUEUED or in SPACE_WAIT at a retry: the test of R65, then R66 to R69.
`waited`: it has just been taken off the tag-wait list. -/
def hostAtFront (t : HostTag) (c : Context) (waited : Bool) (s : State) : Done :=
  if isJournalLine s c.line ∧ innermostState s = some .RESTORING then (holdRequest t c s, [.front c.line])
  else if isJournalLine s c.line ∧ innermostState s = some .HALTED then
    (endContext t c .FENCED none s, [.front c.line])
  else if emptyMask c.request then (endContext t c .OK none s, [.front c.line])
  else if s.dp.link = .DOWN then (endContext t c .ERROR none s, [.front c.line])
  else match freeTag s with
    | some tag =>
      if tagAtHand s waited then accessMemory t c tag s
      else (waitForTag (.host t) (leaveHolds t (updateContext t (fun x => { x with state := .QUEUED }) s)), [])
    | none => (waitForTag (.host t) (leaveHolds t (updateContext t (fun x => { x with state := .QUEUED }) s)), [])

/-- The payload of the record in a slot. -/
def payloadOf (s : State) (slot : Slot) : Option Data :=
  (tableGet s.jr.records slot.toNat).bind (·.payload)

/-- A placed restore step at the front (05 R91). -/
def restoreAtFront (slot : Slot) (waited : Bool) (s : State) : Done :=
  if s.dp.link = .DOWN then (failRestore .LINK_DOWN slot s, [.front (recordLine s slot)])
  else match freeTag s, payloadOf s slot with
    | some tag, some d =>
      if tagAtHand s waited then (issueRestore slot (recordLine s slot) d tag s, [])
      else (waitFirst (.restore slot) s, [])
    | none, _ => (waitFirst (.restore slot) s, [])
    | some _, none => (s, [])

/-- The front step of a line's chain acts, unless it is active, waits for a tag already or is in SPACE_WAIT. -/
def atFront (line : Line) (s : State) : Done :=
  match chainOf s line with
  | .host t :: _ =>
    match contextOf s t with
    | some c =>
      if c.state = .QUEUED ∧ !s.dp.tagWait.contains (.host t) then hostAtFront t c false s else (s, [])
    | none => (s, [])
  | .restore slot :: _ =>
    if s.ec.sequencer = .PLACED slot ∧ !s.dp.tagWait.contains (.restore slot) then restoreAtFront slot false s
    else (s, [])
  | _ => (s, [])

/-- A step taken off the tag-wait list with a tag at hand (07 R119, step 3). -/
def serveStep (st : Step) (s : State) : Done :=
  match st with
  | .host t =>
    match contextOf s t with
    | some c => hostAtFront t c true s
    | none => (s, [])
  | .restore slot => if s.ec.sequencer = .PLACED slot then restoreAtFront slot true s else (s, [])
  | .orphan _ => (s, [])

/-- The first step of the tag-wait list served while a tag is free, then the next (07 R119, step 3). In between the drain
is judged, since a write served may leave the drain set (05 R81): a restore step that its completion places stands in
front of the steps that still wait (07 R119). -/
def handOutTags (s : State) : Done :=
  match s.dp.tagWait with
  | [] => (s, [])
  | st :: rest =>
    if freeTag s = none ∨ s.dp.link = .DOWN then (s, [])
    else
      let r := serveStep st { s with dp := { s.dp with tagWait := rest } }
      (r.1, r.2 ++ [.drain, .handOut])

/-! ## Intake and the hold list (04) -/

/-- A request appended to its line's chain, where it reaches the front at once if the chain was empty (04 R57). -/
def chainRequest (t : HostTag) (c : Context) (s : State) : Done :=
  (queueRequest t c.line s, [.front c.line])

/-- The classification at intake by the table of 01 R9 (04 R57). -/
def classify (t : HostTag) (c : Context) (s : State) : Done :=
  match modeOf s c.line with
  | .PASS => chainRequest t c s
  | .FENCE =>
    if c.request.kind = .WRITE then
      (postEvent .WRITE_REFUSED none (some c.line) (detail 0) (endContext t c .FENCED none s), [])
    else chainRequest t c s
  | .JOURNAL =>
    match innermostState s with
    | some .DRAINING => (holdRequest t c s, [])
    | some .RESTORING => (holdRequest t c s, [])
    | some .HALTED => (endContext t c .FENCED none s, [])
    | some .OPEN => chainRequest t c s
    | none => chainRequest t c s

/-- A request taken by intake (04 R57). -/
def takeIntake (t : HostTag) (s : State) : Done :=
  match contextOf s t with
  | some c => classify t c s
  | none => (s, [])

/-- An OPERATION entry released: its request re-enters intake (04 R61). -/
def releaseHeld (t : HostTag) (s : State) : Done :=
  if s.holds.any fun h => h.tag == t && h.reason == .OPERATION then (leaveHolds t s, [.intake t]) else (s, [])

/-- The entries of one reason, in list order. -/
def heldFor (s : State) (r : HoldReason) : List HostTag :=
  (s.holds.filter fun h => h.reason == r).map (·.tag)

/-- A write in SPACE_WAIT retries; at an offer of slots only while one is free (03 R48, 04 R76). -/
def retrySpace (t : HostTag) (offer : Bool) (s : State) : Done :=
  match contextOf s t with
  | some c =>
    if c.state = .SPACE_WAIT ∧ (chainOf s c.line).head? = some (.host t) ∧ (offer → 1 ≤ freeCount s.jr) then
      hostAtFront t c false s
    else (s, [])
  | none => (s, [])

/-! ## Watches, rules and epoch requests (08, 02) -/

/-- The rules that fire at a match of these watches, their marks being set; rule 0 first (08 R136). -/
def firingRules (matched : List (Fin 4)) (s : State) : List (Fin 2) :=
  (List.finRange 2).filter fun k => s.wu.rules[k].fires matched

/-- A write shown to the watch unit: the marks set, both rules tested, and then the firing ones' steps, rule 0's with
all that its request brings about before rule 1's (08 R133, R135, R136; a further write that rule 0's request lets go
is shown in between, log 22). -/
def showWrite (line : Line) (m : Mask) (d : Data) (s : State) : Done :=
  let matched := matchingWatches s line m d
  let marked := setMarks matched s
  (marked, (firingRules matched marked).map fun k => .fire k line)

/-- The steps of a rule that fires (08 R136, steps 1 to 4). They are carried out for every write that made the rule fire.
DESIGN CHOICE (log 22): so also where a firing for a write that was let go in between has cleared the marks, and, under
the once flag, the enabled flag (R134). -/
def fireRule (k : Fin 2) (line : Line) (s : State) : Done :=
  (postEvent .RULE_FIRED (innermostSequence s) (some line) (firedDetail k s.wu.rules[k].action) (disarmRule k s),
   [.request s.wu.rules[k].action (ruleOrigin k)])

/-- An epoch request accepted (02 R29, R31): a closing request's drain is judged at once (05 R81). -/
def acceptRequest (op : EpochOp) (o : Origin) (s : State) : Done :=
  if op = .MRK then (openEpoch o s, []) else (beginClosing op o s, [.drain])

/-- An epoch request of a line or a rule taken by the epoch controller; its refusal is an event (02 R24, R28). -/
def takeRequest (op : EpochOp) (o : Origin) (s : State) : Done :=
  match refusalOf s op with
  | some r => (postEvent .REFUSED (innermostSequence s) none (refusedDetail op o r) s, [])
  | none => acceptRequest op o s

/-! ## Drain completion and the restore sequencer (05) -/

/-- The pending operation performed at drain completion (05 R82). -/
def performPending (e : Epoch) (s : State) : Done :=
  match e.pending with
  | some .COMMIT =>
    match s.ec.stack with
    | _ :: p :: _ => (commitMerge e p s, closingEnd false)
    | _ => (commitOuter e s, closingEnd (e.runLength != 0))
  | some .ABANDON => (abandonInnermost (eligibleAfter s) s, closingEnd (e.runLength != 0))
  | some .DISCARD => (discardAll s, closingEnd (s.ec.stack.any fun x => x.runLength != 0))
  | some .ROLLBACK =>
    if e.broken then (refuseRollback e s, closingEnd false) else (startRestore s, [.takeUp])
  | none => (s, [])

/-- The drain judged: with the innermost epoch DRAINING and the drain set empty it completes (05 R81). -/
def judgeDrain (s : State) : Done :=
  match innermost s with
  | some e => if e.state = .DRAINING ∧ drainSet s = [] then performPending e s else (s, [])
  | none => (s, [])

/-- The sequencer takes up the newest record of the RESTORING epoch's run, or finds it empty (05 R90, R93). -/
def takeUpNewest (s : State) : Done :=
  match innermost s with
  | none => (s, [])
  | some e =>
    if e.state ≠ .RESTORING ∨ s.ec.sequencer ≠ .IDLE then (s, [])
    else if e.runLength = 0 then (endRollback e s, closingEnd s.ec.removedSome)
    else
      let slot := s.jr.head - 1
      match tableGet s.jr.records slot.toNat with
      | none => (s, [])
      | some r =>
        match r.state with
        | .VOID => (removeNewest false s, [.takeUp])
        | .HELD =>
          if s.dp.link = .DOWN then (failRestore .LINK_DOWN slot s, [])
          else (placeRestore slot r.line s, [.front r.line])
        | .RESERVED => (s, [])
        | .RESTORING => (s, [])

/-! ## Performing the agenda -/

/-- One task performed: the state, and the tasks that come of it. -/
def perform : Task → State → Done
  | .front line, s => atFront line s
  | .intake t, s => takeIntake t s
  | .shown line m d, s => showWrite line m d s
  | .fire k line, s => fireRule k line s
  | .request op o, s => takeRequest op o s
  | .drain, s => judgeDrain s
  | .takeUp, s => takeUpNewest s
  | .spaceRetries offer, s => (s, (heldFor s .SPACE).map fun t => .retry t offer)
  | .retry t offer, s => retrySpace t offer s
  | .holdRelease, s => (s, (heldFor s .OPERATION).map .reenter)
  | .reenter t, s => releaseHeld t s
  | .handOut, s => handOutTags s

/-- The agenda performed in order, a task's own consequences first; none where the bound is passed (log 9). -/
def runAgenda : Nat → List Task → State → Option State
  | _, [], s => some s
  | 0, _ :: _, _ => none
  | n + 1, t :: ts, s => runAgenda n ((perform t s).2 ++ ts) (perform t s).1

/-- An event's changes with everything it carries: the next state. -/
def settle (tasks : List Task) (s : State) : Host.Outcome State Fault Refusal :=
  match runAgenda Config.agendaBound tasks s with
  | some t => .next t
  | none => .fault .cascade

/-- How an event ends that may have freed tags or ended a host write: the drain judged, with what its completion carries
(05 R81), and then the freed tags handed out to the steps that wait, a restore step that the completion placed first
(07 R119, log 7). With no step waiting there is nothing to hand out: a step that reaches the front takes a free tag at
once (R119, step 2). -/
def eventEnd (s : State) : List Task := if s.dp.tagWait = [] then [.drain] else [.drain, .handOut]

/-- An event that may have freed tags or ended a host write: its agenda, then its end. -/
def settleEvent (tasks : List Task) (s : State) : Host.Outcome State Fault Refusal :=
  match runAgenda Config.agendaBound tasks s with
  | some t => settle (eventEnd t) t
  | none => .fault .cascade

end Sys2Proof.Machine
end

