-- ==== Sys2Proof/Machine/ControlLines.lean ====
section
/-! DEFINITION. The reset rows POWER_ON, RST_N_RESET, RESET_END (10 R160, R162) and the control lines:
CONTROL_LINE_LEVEL_CHANGE, MARK_N_FALLING_EDGE, UNDO_N_FALLING_EDGE, FILTER_RE_ARM (10 R159). -/

namespace Sys2Proof.Machine

open Host (Outcome)

/-- POWER_ON (10 R160): every item at its reset value, the device held. -/
def execPowerOn (s : State) : Outcome State Fault Refusal := .next (resetDevice true s)

/-- RST_N_RESET (10 R160): RST_N has been low for 10 µs. -/
def execRstNReset (s : State) : Outcome State Fault Refusal := .next (resetDevice true s)

/-- RESET_END (10 R162): the end of the hold. A device that is not held has no hold to end (log 5). -/
def execResetEnd (upstreamFirst : Bool) (s : State) : Outcome State Fault Refusal :=
  if s.held then .next (endReset upstreamFirst s) else .next s

/-- A control line. -/
def lineFilter (s : State) : ControlLine → LineFilter
  | .MARK_N => s.pins.mark
  | .UNDO_N => s.pins.undo

/-- A control line changed. -/
def setLineFilter (l : ControlLine) (f : LineFilter) (s : State) : State :=
  { s with pins := match l with
      | .MARK_N => { s.pins with mark := f }
      | .UNDO_N => { s.pins with undo := f } }

/-- The filter at a change of level (10 R159). -/
def filterAtLevel : FilterState → Bool → FilterState
  | .HIGH, false => .FALLING
  | .FALLING, true => .HIGH
  | .LOW, true => .RISING
  | .RISING, false => .LOW
  | st, _ => st

/-- CONTROL_LINE_LEVEL_CHANGE (10 R159): in reset the level is seen and the filter not followed (10 R160). A level
that the line has already is no change (log 5). -/
def execControlLineLevelChange (l : ControlLine) (high : Bool) (s : State) : Outcome State Fault Refusal :=
  let f := lineFilter s l
  if f.high = high then .next s
  else .next (setLineFilter l ⟨high, if s.held then f.state else filterAtLevel f.state high, s.now⟩ s)

/-- A filter that has stood for 1 µs since its line's change settles (10 R159). -/
def settleFilter (l : ControlLine) (st : FilterState) (s : State) : State :=
  setLineFilter l { lineFilter s l with state := st, since := s.now } s

/-- Whether a filter, followed and not in reset, has stood in a state for 1 µs (10 R159); before that its row finds
nothing to do (log 3). -/
def filterStood (s : State) (l : ControlLine) (st : FilterState) : Bool :=
  !s.held && (lineFilter s l).state == st && (lineFilter s l).since + 1 ≤ s.now

/-- The request of a qualified edge: made where the line's LINE_ENABLE flag is set (10 R159, 02 R25). -/
def lineRequest (flag : Nat) (op : EpochOp) (o : Origin) (s : State) : Outcome State Fault Refusal :=
  if s.cfg.lineEnable.getLsbD flag then
    let r := takeRequest op o s
    settle r.2 r.1
  else .next s

/-- MARK_N_FALLING_EDGE (10 R159, 02 R25): the change from FALLING to LOW; with the line's flag set, an MRK with
origin MARK_LINE. -/
def execMarkNFallingEdge (s : State) : Outcome State Fault Refusal :=
  if filterStood s .MARK_N .FALLING then lineRequest 0 .MRK .MARK_LINE (settleFilter .MARK_N .LOW s) else .next s

/-- UNDO_N_FALLING_EDGE (10 R159, 02 R25): the change from FALLING to LOW; with the line's flag set, an RBK with
origin UNDO_LINE. -/
def execUndoNFallingEdge (s : State) : Outcome State Fault Refusal :=
  if filterStood s .UNDO_N .FALLING then lineRequest 1 .RBK .UNDO_LINE (settleFilter .UNDO_N .LOW s) else .next s

/-- FILTER_RE_ARM (10 R159): the line has stayed high for 1 µs. -/
def execFilterReArm (l : ControlLine) (s : State) : Outcome State Fault Refusal :=
  if filterStood s l .RISING then .next (settleFilter l .HIGH s) else .next s

end Sys2Proof.Machine
end

