-- ==== Sys2Proof/Machine/Internal.lean ====
section
/-! DEFINITION. What the device does at a moment of its own: HOLD_EXPIRY (04 R60), SCRUBBER_VISIT (06 R106, R107),
DRAIN_COMPLETION (05 R81), ROLLBACK_END (05 R93), CAPTURE_DECISION (04 R69), FORWARD_READ_ISSUE (04 R68),
RESTORE_WRITE_ISSUE (05 R91). The last five are parts of other events (log 6); as commands of their own they act
where their condition holds and leave the state as it is where it does not (log 5). -/

namespace Sys2Proof.Machine

open Host (Outcome)

/-- The hold-list entry of a tag. -/
def holdEntryOf (s : State) (t : HostTag) : Option HoldEntry := s.holds.find? fun h => h.tag == t

/-- HOLD_EXPIRY (04 R60): where the entry's expiry is reached the request is answered EXPIRED. Before it (log 3), for an
entry without an expiry and for one that was released (04 R62, log 5) there is nothing to expire; a request held again
has a new expiry. -/
def execHoldExpiry (t : HostTag) (s : State) : Outcome State Fault Refusal :=
  match holdEntryOf s t, contextOf s t with
  | some ⟨_, _, r, some x⟩, some c =>
    if x ≤ s.now then
      settleEvent [.front c.line]
        (postEvent .EXPIRED (innermostSequence s) (some c.line) (expiredDetail t r) (endContext t c .EXPIRED none s))
    else .next s
  | _, _ => .next s

/-- SCRUBBER_VISIT (06 R106, R107): one stamp visited; the visit of the last one completes the pass. -/
def execScrubberVisit (s : State) : Outcome State Fault Refusal :=
  if !s.ss.sweeping then .next s
  else
    let s1 := visitStamp s
    if s.ss.position = Config.lastStamp then .next (completePass s1)
    else .next { s1 with ss := { s1.ss with position := s1.ss.position + 1 } }

/-- DRAIN_COMPLETION (05 R81, R82). -/
def execDrainCompletion (s : State) : Outcome State Fault Refusal := settle [.drain] s

/-- Whether the RESTORING epoch's run is empty with no record in progress (05 R93). -/
def rollbackOver (s : State) : Bool :=
  match innermost s with
  | some e => e.state == .RESTORING && e.runLength == 0 && s.ec.sequencer == .IDLE
  | none => false

/-- ROLLBACK_END (05 R93). -/
def execRollbackEnd (s : State) : Outcome State Fault Refusal :=
  if rollbackOver s then settle [.takeUp] s else .next s

/-- Whether a host request stands QUEUED at the front of its chain, with the link UP and a tag at hand, and the test
of 04 R65 lets it through. -/
def readyAtFront (s : State) (t : HostTag) (c : Context) : Bool :=
  !s.held && c.state == .QUEUED && (chainOf s c.line).head? == some (.host t) && s.dp.link == .UP &&
    (freeTag s).isSome &&
    !(isJournalLine s c.line && (innermostState s == some .RESTORING || innermostState s == some .HALTED))

/-- A ready host request takes its tag, off the tag-wait list if it stood there. -/
def accessNow (t : HostTag) (c : Context) (s : State) : Outcome State Fault Refusal :=
  let r := hostAtFront t c true (stopWaiting (.host t) s)
  settleEvent r.2 r.1

/-- CAPTURE_DECISION (04 R69). -/
def execCaptureDecision (t : HostTag) (s : State) : Outcome State Fault Refusal :=
  match contextOf s t with
  | none => .next s
  | some c =>
    if readyAtFront s t c && c.request.kind == .WRITE && !emptyMask c.request then accessNow t c s else .next s

/-- FORWARD_READ_ISSUE (04 R68). -/
def execForwardReadIssue (t : HostTag) (s : State) : Outcome State Fault Refusal :=
  match contextOf s t with
  | none => .next s
  | some c => if readyAtFront s t c && c.request.kind == .READ then accessNow t c s else .next s

/-- RESTORE_WRITE_ISSUE (05 R91): the placed step is at the front with a tag at hand. -/
def execRestoreWriteIssue (s : State) : Outcome State Fault Refusal :=
  match s.ec.sequencer with
  | .IDLE => .next s
  | .WRITING _ => .next s
  | .PLACED slot =>
    if (chainOf s (recordLine s slot)).head? = some (.restore slot) ∧ s.dp.link = .UP ∧ freeTag s ≠ none then
      let r := restoreAtFront slot true (stopWaiting (.restore slot) s)
      settleEvent r.2 r.1
    else .next s

end Sys2Proof.Machine
end

