-- ==== Sys2Proof/Machine/Links.lean ====
section
/-! DEFINITION. The links: host requests, memory replies, timeouts, and the changes of both link states (07). -/

namespace Sys2Proof.Machine

open Host (Outcome)

/-! ## Host requests (07 R114, R115) -/

/-- A request message on the upstream link: accepted into a context and taken by intake, or refused PROTOCOL where
its tag has a live context; not received while the link is DOWN or the device is in reset (07 R114, R115; 10 R160). -/
def receiveRequest (t : HostTag) (line : Line) (r : Request) (s : State) : Outcome State Fault Refusal :=
  if s.held ∨ s.upLink = .DOWN then .next s
  else if (contextOf s t).isSome then
    .next (postEvent .TAG_CONFLICT none (some line) (conflictDetail t r.kind) (sendReply t r.kind .PROTOCOL none s))
  else settle [.intake t] (createContext t r line s)

/-- READ_REQUEST (07 R114). -/
def execReadRequest (t : HostTag) (line : Line) (s : State) : Outcome State Fault Refusal :=
  receiveRequest t line .READ s

/-- WRITE_REQUEST (07 R114). -/
def execWriteRequest (t : HostTag) (line : Line) (m : Mask) (d : Data) (s : State) : Outcome State Fault Refusal :=
  receiveRequest t line (.WRITE m d) s

/-! ## The outcome of a downstream request (07 R120, R121, R127) -/

/-- The failure of a tracker entry's owner, the entry being removed (07 R121); `cause` is a restore write's. -/
def failOwner (tag : DownTag) (e : TrackerEntry) (cause : HaltCause) (s : State) : State :=
  match e.owner with
  | .context t =>
    match contextOf s t with
    | none => s
    | some c =>
      if e.purpose = .CAPTURE_READ then
        endContext t c .ERROR none (failCapture (c.slot.getD 0) e.line (c.oldStamp.getD 0) s)
      else endContext t c .ERROR none s
  | .sequencer =>
    match s.ec.sequencer with
    | .WRITING slot => failRestore cause slot s
    | .IDLE => s
    | .PLACED _ => s
  | .orphaned =>
    if e.purpose = .CAPTURE_READ then
      leaveChain e.line (.orphan tag) (failCapture (e.slot.getD 0) e.line (e.oldStamp.getD 0) s)
    else leaveChain e.line (.orphan tag) s

/-- A capture completed: the record HELD, then the write issued with a tag of its own, ahead of the steps that wait
(04 R73, 07 R119). -/
def completeCapture (t : HostTag) (c : Context) (line : Line) (d : Data) (s : State) : Done :=
  let s1 := holdRecord (c.slot.getD 0) d s
  match c.request, freeTag s1 with
  | .WRITE m wd, some tag => (forwardWrite t line m wd tag s1, [.shown line m wd])
  | _, _ => (s1, [])

/-- The effect of an OK read reply on the entry's owner, the entry being removed (07 R120, R127). -/
def readDone (tag : DownTag) (e : TrackerEntry) (d : Data) (s : State) : Done :=
  match e.owner with
  | .context t =>
    match contextOf s t with
    | none => (s, [])
    | some c =>
      if e.purpose = .CAPTURE_READ then completeCapture t c e.line d s
      else (endContext t c .OK (some d) s, [.front e.line])
  | .sequencer => (s, [])
  | .orphaned =>
    if e.purpose = .CAPTURE_READ then
      (leaveChain e.line (.orphan tag) (holdRecord (e.slot.getD 0) d s), [.front e.line])
    else (leaveChain e.line (.orphan tag) s, [.front e.line])

/-- The effect of an OK write reply on the entry's owner, the entry being removed (07 R120, R127; 05 R92). -/
def writeDone (tag : DownTag) (e : TrackerEntry) (s : State) : Done :=
  match e.owner with
  | .context t =>
    match contextOf s t with
    | none => (s, [])
    | some c => (endContext t c .OK none s, [.front e.line])
  | .sequencer =>
    match s.ec.sequencer with
    | .WRITING slot =>
      let s1 := leaveChain e.line (.restore slot) (removeNewest true s)
      ({ s1 with ec := { s1.ec with sequencer := .IDLE } }, [.front e.line, .takeUp])
    | .IDLE => (s, [])
    | .PLACED _ => (s, [])
  | .orphaned => (leaveChain e.line (.orphan tag) s, [.front e.line])

/-- A reply on a tag that is not in use: late on a quarantined tag, which it frees, else stray (07 R123). -/
def unmatchedReply (tag : DownTag) (s : State) : Outcome State Fault Refusal :=
  match tableGet s.dp.quarantine tag.val with
  | some line =>
    settleEvent [] (postEvent .LATE_RESPONSE none (some line) (lateDetail tag .QUARANTINED) (endQuarantine tag s))
  | none => .next (postEvent .LATE_RESPONSE none none (lateDetail tag .STRAY) s)

/-- A reply of a kind that does not match the entry's purpose: discarded, the entry stays (07 R120). -/
def mismatchedReply (tag : DownTag) (e : TrackerEntry) (s : State) : Outcome State Fault Refusal :=
  .next (postEvent .LATE_RESPONSE none (some e.line) (lateDetail tag .MISMATCH) s)

/-- A reply of status ERROR that belongs to an entry (07 R121). -/
def errorReply (tag : DownTag) (e : TrackerEntry) (s : State) : Outcome State Fault Refusal :=
  settleEvent [.front e.line]
    (failOwner tag e .ERROR
      (postEvent .DOWN_ERROR none (some e.line) (downDetail tag e.purpose) (removeEntry tag s)))

/-- Whether a read reply matches a purpose (07 R120). -/
def Purpose.isRead : Purpose → Bool
  | .FORWARD_READ => true
  | .FORWARD_WRITE => false
  | .CAPTURE_READ => true
  | .RESTORE_WRITE => false

/-- READ_REPLY (07 R120, R121, R123). No reply arrives on a DOWN link or in reset (07 R124, log 16). -/
def execReadReply (tag : DownTag) (r : ReadResult) (s : State) : Outcome State Fault Refusal :=
  if s.held ∨ s.dp.link = .DOWN then .next s
  else match tableGet s.dp.tracker tag.val with
    | none => unmatchedReply tag s
    | some e =>
      if !e.purpose.isRead then mismatchedReply tag e s
      else match r with
        | .ERROR => errorReply tag e s
        | .OK d =>
          let x := readDone tag e d (removeEntry tag s)
          settleEvent x.2 x.1

/-- WRITE_REPLY (07 R120, R121, R123). -/
def execWriteReply (tag : DownTag) (r : WriteResult) (s : State) : Outcome State Fault Refusal :=
  if s.held ∨ s.dp.link = .DOWN then .next s
  else match tableGet s.dp.tracker tag.val with
    | none => unmatchedReply tag s
    | some e =>
      if e.purpose.isRead then mismatchedReply tag e s
      else match r with
        | .ERROR => errorReply tag e s
        | .OK =>
          let x := writeDone tag e (removeEntry tag s)
          settleEvent x.2 x.1

/-- DOWNSTREAM_TIMEOUT (07 R122), where the entry's expiry is reached. Before it (log 3) and on a tag without an entry
(07 R124, log 5) nothing times out: a request issued on the tag in the meantime has an expiry of its own. -/
def execDownstreamTimeout (tag : DownTag) (s : State) : Outcome State Fault Refusal :=
  match tableGet s.dp.tracker tag.val with
  | none => .next s
  | some e =>
    if e.expiry ≤ s.now then
      settleEvent [.front e.line]
        (failOwner tag e .TIMEOUT
          (postEvent .DOWN_TIMEOUT none (some e.line) (downDetail tag e.purpose)
            (quarantineTag tag e.line (removeEntry tag s))))
    else .next s

/-! ## Changes of the link states (07 R125 to R129) -/

/-- What becomes of a chain's step when the upstream link is lost: a host request with an access outstanding becomes
its orphan, another leaves (07 R126, steps 2 to 4). -/
def orphanStep (s : State) : Step → Option Step
  | .host t =>
    match contextOf s t with
    | some c => if contextActive s t then c.downTag.map .orphan else none
    | none => none
  | .restore slot => some (.restore slot)
  | .orphan t => some (.orphan t)

/-- A line's chain when the upstream link is lost; an empty one has no entry (07 R126, step 4). -/
def orphanChain (s : State) (p : Nat × List Step) : Option (Nat × List Step) :=
  match p.2.filterMap (orphanStep s) with
  | [] => none
  | c => some (p.1, c)

/-- A tracker entry when the upstream link is lost: a context's has no owner from now on, and a capture read takes
over the slot and the kept old stamp (07 R126, step 3). -/
def orphanEntry (s : State) (e : TrackerEntry) : TrackerEntry :=
  match e.owner with
  | .context t =>
    match contextOf s t with
    | some c =>
      if e.purpose = .CAPTURE_READ then { e with owner := .orphaned, slot := c.slot, oldStamp := c.oldStamp }
      else { e with owner := .orphaned }
    | none => { e with owner := .orphaned }
  | .sequencer => e
  | .orphaned => e

/-- Whether a step is a restore step. -/
def Step.isRestore : Step → Bool
  | .host _ => false
  | .restore _ => true
  | .orphan _ => false

/-- The UP→DOWN change of the upstream link (07 R126). -/
def loseUpstream (s : State) : State :=
  postEvent .LINK_CHANGE none none (linkDetail false .DOWN)
    { s with
      upLink := .DOWN
      contexts := []
      holds := []
      lht := s.lht.filterMap (orphanChain s)
      dp := { s.dp with
        tracker := s.dp.tracker.map fun p => (p.1, orphanEntry s p.2)
        tagWait := s.dp.tagWait.filter Step.isRestore } }

/-- A link-status indication as the device sees it. -/
def indicate (downstream up : Bool) (s : State) : State :=
  { s with pins := if downstream then { s.pins with downIndication := up } else { s.pins with upIndication := up } }

/-- UPSTREAM_LINK_DOWN (07 R126). In reset, or with the link DOWN already, only the indication changes. -/
def execUpstreamLinkDown (s : State) : Outcome State Fault Refusal :=
  if s.held ∨ s.upLink = .DOWN then .next (indicate false false s)
  else settle [.drain] (loseUpstream (indicate false false s))

/-- UPSTREAM_LINK_UP (07 R125, R126). -/
def execUpstreamLinkUp (s : State) : Outcome State Fault Refusal :=
  if s.held ∨ s.upLink = .UP then .next (indicate false true s)
  else .next (upstreamUp (indicate false true s))

/-- A step of the tag-wait list at the loss of the downstream link (07 R128, step 5). -/
def failWaiting (s : State) (st : Step) : State :=
  match st with
  | .host t =>
    match contextOf s t with
    | some c => endContext t c .ERROR none s
    | none => s
  | .restore slot => if s.ec.sequencer = .PLACED slot then failRestore .LINK_DOWN slot s else s
  | .orphan _ => s

/-- A write in SPACE_WAIT at the loss of the downstream link (07 R128, step 6; 04 R76). -/
def failSpaceWait (s : State) (t : HostTag) : State :=
  match contextOf s t with
  | some c => if c.state = .SPACE_WAIT then endContext t c .ERROR none s else s
  | none => s

/-- A tracker entry at the loss of the downstream link (07 R128, step 2). -/
def failEntry (s : State) (p : Nat × TrackerEntry) : State :=
  failOwner (Fin.ofNat 64 p.1) p.2 .LINK_DOWN (removeEntry (Fin.ofNat 64 p.1) s)

/-- The line of a step that waits. -/
def stepLine (s : State) : Step → Option Line
  | .host t => (contextOf s t).map (·.line)
  | .restore slot => some (recordLine s slot)
  | .orphan _ => none

/-- The lines whose front may change at the loss of the downstream link: the entries' in tag order, the waiting
steps', the SPACE_WAIT writes' (07 R128, log 14). -/
def linesFailed (s : State) : List Line :=
  s.dp.tracker.map (·.2.line) ++ s.dp.tagWait.filterMap (stepLine s) ++
    (s.holds.filter fun h => h.reason == .SPACE).map (·.line)

/-- The steps of the tag-wait list as step 5 of 07 R128 takes them: every host request, which is answered ERROR, and
then the restore step, whose failure enters HALTED (05 R95) and so would answer a waiting JOURNAL request FENCED (05 R96).
The host requests' own order, that of the list, is a DESIGN CHOICE (log 14). -/
def waitersFailed (s : State) : List Step :=
  (s.dp.tagWait.filter fun st => !st.isRestore) ++ s.dp.tagWait.filter Step.isRestore

/-- The UP→DOWN change of the downstream link, steps 1 to 6 (07 R128). -/
def loseDownstream (s : State) : State :=
  let s1 := postEvent .LINK_CHANGE none none (linkDetail true .DOWN) { s with dp := { s.dp with link := .DOWN } }
  let s2 := s1.dp.tracker.foldl failEntry s1
  let s3 := { s2 with dp := { s2.dp with quarantine := [] } }
  let s4 := (waitersFailed s3).foldl failWaiting s3
  let s5 := { s4 with dp := { s4.dp with tagWait := [] } }
  (heldFor s5 .SPACE).foldl failSpaceWait s5

/-- DOWNSTREAM_LINK_DOWN (07 R128): then the steps brought to the front meet the DOWN link, and the drain is judged
last. -/
def execDownstreamLinkDown (s : State) : Outcome State Fault Refusal :=
  if s.held ∨ s.dp.link = .DOWN then .next (indicate true false s)
  else settleEvent ((linesFailed s).map .front) (loseDownstream (indicate true false s))

/-- DOWNSTREAM_LINK_UP (07 R129): the change itself issues nothing. -/
def execDownstreamLinkUp (s : State) : Outcome State Fault Refusal :=
  if s.held ∨ s.dp.link = .UP then .next (indicate true true s)
  else .next (downstreamUp (indicate true true s))

end Sys2Proof.Machine
end

