-- ==== Sys2Proof/Decode.lean ====
section
/-! DEFINITION. Reading commands. No row of the table has bits, so `decodeTableWord` answers none; a management
frame received on MOSI is read into its row by `decodeFrame` (10 R153, R154 and section 10.3), and `encodeFrame`
writes it. -/

namespace Sys2Proof

/-- The command that a word spells by the table's bits: no row of spec/opcode_table.json gives any. -/
def decodeTableWord (_nbits _w : Nat) : Option Instr := none

/-- Check 1 of 10 R154: fewer than 16 bits, not whole bytes, or more than 24 bytes. -/
def badBitCount (bits : Nat) : Bool :=
  bits < 16 || bits % 8 != 0 || 8 * Config.frameBytes < bits

/-- The row of a command code (10 section 10.3); none where the byte is not a command code. The order of link
changes at a DRS is not in the frame (log 10). -/
def commandOf (code : Byte) (f : Frame) (upstreamFirst : Bool) : Option Instr :=
  match code.toNat with
  | 0x01 => some (.rpy f)
  | 0x02 => some (.sts f)
  | 0x03 => some (.rcf f)
  | 0x04 => some (.wcf f)
  | 0x10 => some (.rgi f)
  | 0x11 => some (.rgr f)
  | 0x12 => some (.rgm f)
  | 0x13 => some (.rgq f)
  | 0x20 => some (.mrk f)
  | 0x21 => some (.cmt f)
  | 0x22 => some (.rbk f)
  | 0x23 => some (.abn f)
  | 0x24 => some (.dsc f)
  | 0x25 => some (.epq f)
  | 0x30 => some (.jst f)
  | 0x31 => some (.jrq f)
  | 0x32 => some (.jrd f)
  | 0x38 => some (.evp f)
  | 0x40 => some (.wts f)
  | 0x41 => some (.wtq f)
  | 0x42 => some (.rls f)
  | 0x43 => some (.rlq f)
  | 0x5A => some (.drs f upstreamFirst)
  | _ => none

/-- Whether a byte is a command code of 10 section 10.3 (10 R154, check 2). -/
def isCommandCode (code : Byte) : Bool :=
  (commandOf code ⟨0, []⟩ false).isSome

/-- The row a CS_N low period of `bits` received bits is, `bytes` being its whole bytes; none where no SCK edge
occurred, which is not a frame (10 R153). -/
def decodeFrame (bits : Nat) (bytes : List Byte) (upstreamFirst : Bool) : Option Instr :=
  if bits = 0 then none
  else if badBitCount bits then some (.badFrame bits bytes)
  else match bytes with
    | code :: seq :: tail =>
      match commandOf code ⟨seq, tail⟩ upstreamFirst with
      | some i => some i
      | none => some (.unknownCommand code ⟨seq, tail⟩)
    | _ => some (.badFrame bits bytes)

/-- A whole frame of a command code: its bit count and its bytes. -/
def frameOf (code : Byte) (f : Frame) : Nat × List Byte :=
  (8 * (f.tail.length + 2), code :: f.seq :: f.tail)

/-- The frame of a management command: its bit count and its bytes; none for the other rows. -/
def encodeFrame : Instr → Option (Nat × List Byte)
  | .rpy f => some (frameOf 0x01 f)
  | .sts f => some (frameOf 0x02 f)
  | .rcf f => some (frameOf 0x03 f)
  | .wcf f => some (frameOf 0x04 f)
  | .rgi f => some (frameOf 0x10 f)
  | .rgr f => some (frameOf 0x11 f)
  | .rgm f => some (frameOf 0x12 f)
  | .rgq f => some (frameOf 0x13 f)
  | .mrk f => some (frameOf 0x20 f)
  | .cmt f => some (frameOf 0x21 f)
  | .rbk f => some (frameOf 0x22 f)
  | .abn f => some (frameOf 0x23 f)
  | .dsc f => some (frameOf 0x24 f)
  | .epq f => some (frameOf 0x25 f)
  | .jst f => some (frameOf 0x30 f)
  | .jrq f => some (frameOf 0x31 f)
  | .jrd f => some (frameOf 0x32 f)
  | .evp f => some (frameOf 0x38 f)
  | .wts f => some (frameOf 0x40 f)
  | .wtq f => some (frameOf 0x41 f)
  | .rls f => some (frameOf 0x42 f)
  | .rlq f => some (frameOf 0x43 f)
  | .drs f _ => some (frameOf 0x5A f)
  | .badFrame bits bytes => some (bits, bytes)
  | .unknownCommand code f => some (frameOf code f)
  | .powerOn => none
  | .rstNReset => none
  | .resetEnd _ => none
  | .controlLineLevelChange _ _ => none
  | .markNFallingEdge => none
  | .undoNFallingEdge => none
  | .filterReArm _ => none
  | .upstreamLinkDown => none
  | .upstreamLinkUp => none
  | .downstreamLinkDown => none
  | .downstreamLinkUp => none
  | .readRequest _ _ => none
  | .writeRequest _ _ _ _ => none
  | .readReply _ _ => none
  | .writeReply _ _ => none
  | .downstreamTimeout _ => none
  | .holdExpiry _ => none
  | .seenMarkExpiry _ _ => none
  | .scrubberVisit => none
  | .drainCompletion => none
  | .rollbackEnd => none
  | .captureDecision _ => none
  | .forwardReadIssue _ => none
  | .restoreWriteIssue => none
  | .csNFallingEdge => none

/-- The order of link changes a command carries beside its frame (log 10). -/
def upstreamFirstOf : Instr → Bool
  | .drs _ b => b
  | _ => false

end Sys2Proof
end

