-- ==== Sys2Proof/Machine/Frames.lean ====
section
/-! DEFINITION. The taking of a management frame (10 R153 to R155): what is common to every frame command. -/

namespace Sys2Proof.Machine

/-- More than 24 bytes in all: part of check 1 of 10 R154. -/
def frameTooLong (f : Frame) : Bool := Config.frameBytes < f.tail.length + 2

/-- A command answered OK with its result. -/
def answerOk (code : Byte) (f : Frame) (result : List Byte) (s : State) : Host.Outcome State Fault Refusal :=
  .next (writeRecord code f.seq .OK none result s)

/-- A command answered with a status that carries no reason and an all-zero result (10 R154). -/
def answerStatus (code : Byte) (f : Frame) (st : ReplyStatus) (s : State) : Host.Outcome State Fault Refusal :=
  .next (writeRecord code f.seq st none [] s)

/-- A command answered REFUSED with its reason (10 R154). -/
def answerRefused (code : Byte) (f : Frame) (r : Reason) (s : State) : Host.Outcome State Fault Refusal :=
  .next (writeRecord code f.seq .REFUSED (some r) [] s)

/-- A frame with a known command code taken at the rising edge of CS_N: checks 1 and 3 of 10 R154, then the command
itself, which makes checks 4 to 6. A frame that a reset met is not taken (10 R155, R160). -/
def onFrame (code : Byte) (arguments : Nat) (f : Frame) (s : State)
    (act : State → Host.Outcome State Fault Refusal) : Host.Outcome State Fault Refusal :=
  if !frameTaken s then .next (closeFrame s)
  else if frameTooLong f || f.tail.length < arguments then answerStatus code f .BAD_FRAME (closeFrame s)
  else act (closeFrame s)

end Sys2Proof.Machine
end

