-- ==== Sys2Proof/Machine/Watches.lean ====
section
/-! DEFINITION. The watch unit's rows: WTS, WTQ, RLS, RLQ and SEEN_MARK_EXPIRY (08 R138 to R141). -/

namespace Sys2Proof.Machine

open Host (Outcome)

/-- A rule whose members that name a watch have their marks absent (08 R139, step 2). -/
def Rule.forgetWatch (k : Fin 4) (r : Rule) : Rule :=
  { r with members := r.members.map fun m => if m.watch = k then { m with mark := none } else m }

/-- A watch written (08 R139). -/
def setWatch (k : Fin 4) (w : Watch) (s : State) : State :=
  { s with wu := ⟨s.wu.watches.set k w, s.wu.rules.map (Rule.forgetWatch k)⟩ }

/-- WTS (08 R139): index, enabled, line, word, value, mask. -/
def execWts (f : Frame) (s : State) : Outcome State Fault Refusal :=
  onFrame 0x40 16 f s fun s =>
    if 3 < argument f 0 1 ∨ Config.lineSpace ≤ argument f 2 5 ∨ 15 < argument f 7 1 then
      answerStatus 0x40 f .BAD_ARGUMENT s
    else answerOk 0x40 f []
      (setWatch (Fin.ofNat 4 (argument f 0 1))
        ⟨argument f 1 1 % 2 == 1, BitVec.ofNat 34 (argument f 2 5), Fin.ofNat 16 (argument f 7 1),
          BitVec.ofNat 32 (argument f 8 4), BitVec.ofNat 32 (argument f 12 4)⟩ s)

/-- WTQ (08 R141): index. -/
def execWtq (f : Frame) (s : State) : Outcome State Fault Refusal :=
  onFrame 0x41 1 f s fun s =>
    if 3 < argument f 0 1 then answerStatus 0x41 f .BAD_ARGUMENT s
    else
      let k : Fin 4 := Fin.ofNat 4 (argument f 0 1)
      answerOk 0x41 f (watchBytes s.wu.watches[k]) s

/-- The member indices of an RLS: as many bytes as the member count gives (10 R163). -/
def memberArguments (f : Frame) : List Nat :=
  (List.range (argument f 2 1)).map fun i => argument f (3 + i) 1

/-- The argument checks of RLS but for the action (08 R140). -/
def ruleArgumentsOk (f : Frame) : Bool :=
  argument f 0 1 ≤ 1 && argument f 2 1 != 0 && argument f 2 1 ≤ 3 && (memberArguments f).all (· ≤ 3) &&
    decide (memberArguments f).Nodup && argument f 6 2 != 0

/-- A rule written, with every mark absent (08 R140). -/
def setRule (k : Fin 2) (r : Rule) (s : State) : State :=
  { s with wu := { s.wu with rules := s.wu.rules.set k r } }

/-- RLS (08 R140): index, flags, member count, members, window, action. -/
def execRls (f : Frame) (s : State) : Outcome State Fault Refusal :=
  onFrame 0x42 9 f s fun s =>
    match ruleArgumentsOk f, actionOfCode (argument f 8 1) with
    | true, some a =>
      answerOk 0x42 f []
        (setRule (Fin.ofNat 2 (argument f 0 1))
          ⟨argument f 1 1 % 2 == 1, (memberArguments f).map fun i => ⟨Fin.ofNat 4 i, none⟩, argument f 6 2, a,
            argument f 1 1 / 2 % 2 == 1⟩ s)
    | _, _ => answerStatus 0x42 f .BAD_ARGUMENT s

/-- RLQ (08 R141): index. -/
def execRlq (f : Frame) (s : State) : Outcome State Fault Refusal :=
  onFrame 0x43 1 f s fun s =>
    if 1 < argument f 0 1 then answerStatus 0x43 f .BAD_ARGUMENT s
    else
      let k : Fin 2 := Fin.ofNat 2 (argument f 0 1)
      answerOk 0x43 f (ruleBytes s.now s.wu.rules[k]) s

/-- The moment at which a member's mark expires; none where it is absent (08 R134). -/
def markExpiry (s : State) (k : Fin 2) (n : Nat) : Option Nat :=
  (s.wu.rules[k].members[n]?).bind (·.mark)

/-- A member's mark made absent. -/
def Rule.clearMark (r : Rule) (n : Nat) : Rule :=
  { r with members := r.members.modify n fun m => { m with mark := none } }

/-- SEEN_MARK_EXPIRY (08 R138): where the mark's expiry is reached the mark becomes absent, and nothing else is done.
A mark renewed in the meantime has a new expiry and stays, since the old one has no effect; before the expiry (log 3)
and on an absent mark (log 5) there is nothing to expire. -/
def execSeenMarkExpiry (k : Fin 2) (n : Fin 3) (s : State) : Outcome State Fault Refusal :=
  match markExpiry s k n.val with
  | some t => if t ≤ s.now then .next (setRule k (s.wu.rules[k].clearMark n.val) s) else .next s
  | none => .next s

end Sys2Proof.Machine
end

