-- ==== Sys2Proof/Machine/Clock.lean ====
section
/-! DEFINITION. Time on an empty queue (DESIGN CHOICE, log 1 and log 2): the next timed event that has come due, one
of the table's own rows, or else 1 µs. -/

namespace Sys2Proof.Machine

/-- The first of a list of candidates. -/
def firstSome {α : Type} : List (Option α) → Option α
  | [] => none
  | some a :: _ => some a
  | none :: r => firstSome r

/-- A control line whose filter has stood for 1 µs (10 R159). -/
def dueFilter (s : State) (l : ControlLine) : Option Instr :=
  let f := lineFilter s l
  if s.held ∨ s.now < f.since + 1 then none
  else match f.state, l with
    | .FALLING, .MARK_N => some .markNFallingEdge
    | .FALLING, .UNDO_N => some .undoNFallingEdge
    | .RISING, _ => some (.filterReArm l)
    | .HIGH, _ => none
    | .LOW, _ => none

/-- The lowest tag whose expiry is reached (07 R122). -/
def dueTimeout (s : State) : Option Instr :=
  (s.dp.tracker.find? fun p => p.2.expiry ≤ s.now).map fun p => .downstreamTimeout (Fin.ofNat 64 p.1)

/-- The first hold-list entry whose expiry is reached (04 R60). -/
def dueHold (s : State) : Option Instr :=
  (s.holds.find? fun h => h.expiry.any (· ≤ s.now)).map fun h => .holdExpiry h.tag

/-- The first mark of a rule whose expiry is reached (08 R138). -/
def dueMark (s : State) (k : Fin 2) : Option Instr :=
  ((List.finRange 3).find? fun n => (markExpiry s k n.val).any (· ≤ s.now)).map fun n => .seenMarkExpiry k n

/-- The scrubber is behind the pace that ends its pass within 2.0 ms (06 R105). -/
def dueVisit (s : State) : Option Instr :=
  if s.ss.sweeping ∧ s.ss.position.toNat < Config.visitsPerTick * (s.now - s.ss.started) then some .scrubberVisit
  else none

/-- The timed event that has come due; where several have, the one the model takes first (log 2). -/
def dueCommand (s : State) : Option Instr :=
  firstSome [dueFilter s .MARK_N, dueFilter s .UNDO_N, dueTimeout s, dueHold s, dueMark s 0, dueMark s 1, dueVisit s]

/-- 1 µs passes. -/
def tick (s : State) : State := { s with now := s.now + 1 }

end Sys2Proof.Machine
end

