-- ==== Sys2Proof/Machine/Epochs.lean ====
section
/-! DEFINITION. The epoch commands: MRK, CMT, RBK, ABN, DSC, EPQ (02 R24 to R34). -/

namespace Sys2Proof.Machine

open Host (Outcome)

/-- The result of an accepted epoch command (02 R28): the epoch an MRK opens, or the epoch a closing command acts on. -/
def acceptedBytes (op : EpochOp) (s : State) : List Byte :=
  if op = .MRK then
    match s.ip.free with
    | own :: _ => openedBytes (newEpoch s own .MGMT)
    | [] => []
  else match innermost s with
    | some e => closingBytes e
    | none => []

/-- An epoch request of the management port: refused in the reply record, without an event, or accepted (02 R28). -/
def commandEpoch (code : Byte) (op : EpochOp) (f : Frame) (s : State) : Outcome State Fault Refusal :=
  onFrame code 0 f s fun s =>
    match refusalOf s op with
    | some r => answerRefused code f r s
    | none =>
      let r := acceptRequest op .MGMT (writeRecord code f.seq .OK none (acceptedBytes op s) s)
      settle r.2 r.1

/-- MRK (02 R27, R28, R31). -/
def execMrk (f : Frame) (s : State) : Outcome State Fault Refusal := commandEpoch 0x20 .MRK f s

/-- CMT (02 R27 to R29). -/
def execCmt (f : Frame) (s : State) : Outcome State Fault Refusal := commandEpoch 0x21 .CMT f s

/-- RBK (02 R27 to R29). -/
def execRbk (f : Frame) (s : State) : Outcome State Fault Refusal := commandEpoch 0x22 .RBK f s

/-- ABN (02 R27 to R29). -/
def execAbn (f : Frame) (s : State) : Outcome State Fault Refusal := commandEpoch 0x23 .ABN f s

/-- DSC (02 R27 to R29). -/
def execDsc (f : Frame) (s : State) : Outcome State Fault Refusal := commandEpoch 0x24 .DSC f s

/-- EPQ (02 R34): level. -/
def execEpq (f : Frame) (s : State) : Outcome State Fault Refusal :=
  onFrame 0x25 1 f s fun s =>
    if argument f 0 1 = 0 ∨ Config.maxDepth < argument f 0 1 then answerStatus 0x25 f .BAD_ARGUMENT s
    else answerOk 0x25 f (epochBytes (epochAt s (argument f 0 1))) s

end Sys2Proof.Machine
end

