-- ==== Sys2Proof/Machine/JournalQueries.lean ====
section
/-! DEFINITION. The journal queries JST, JRQ, JRD (03 R49 to R51) and the event pop EVP (09 R148). -/

namespace Sys2Proof.Machine

open Host (Outcome)

/-- JST (03 R49). -/
def execJst (f : Frame) (s : State) : Outcome State Fault Refusal :=
  onFrame 0x30 0 f s fun s => answerOk 0x30 f (journalBytes s.jr) s

/-- JRQ (03 R50): slot. -/
def execJrq (f : Frame) (s : State) : Outcome State Fault Refusal :=
  onFrame 0x31 2 f s fun s =>
    if Config.ringSlots ≤ argument f 0 2 then answerStatus 0x31 f .BAD_ARGUMENT s
    else answerOk 0x31 f (recordBytes s (BitVec.ofNat 11 (argument f 0 2))) s

/-- JRD (03 R51): slot, word. -/
def execJrd (f : Frame) (s : State) : Outcome State Fault Refusal :=
  onFrame 0x32 3 f s fun s =>
    if Config.ringSlots ≤ argument f 0 2 ∨ 15 < argument f 2 1 then answerStatus 0x32 f .BAD_ARGUMENT s
    else answerOk 0x32 f
      (payloadBytes s.jr (BitVec.ofNat 11 (argument f 0 2)) (Fin.ofNat 16 (argument f 2 1))) s

/-- The queue after a pop: the front event gone, the lost count 0, ALERT_N evaluated (09 R148). -/
def popEvent (s : State) : State :=
  { s with eq := evaluateAlert s.cfg.alertMask { s.eq with queue := s.eq.queue.tail, lost := 0 } }

/-- EVP (09 R148). -/
def execEvp (f : Frame) (s : State) : Outcome State Fault Refusal :=
  onFrame 0x38 0 f s fun s =>
    answerOk 0x38 f (eventBytes s.eq.queue.head? s.eq.lost s.eq.queue.tail.length) (popEvent s)

end Sys2Proof.Machine
end

