-- ==== Sys2Proof/Machine/Management.lean ====
section
/-! DEFINITION. The management port's own rows: RPY, STS, RCF, WCF, DRS, BAD_FRAME, UNKNOWN_COMMAND and
CS_N_FALLING_EDGE (10 R153 to R158, R161). -/

namespace Sys2Proof.Machine

open Host (Outcome)

/-- RPY (10 R155): the reply record stays as it was. -/
def execRpy (f : Frame) (s : State) : Outcome State Fault Refusal :=
  onFrame 0x01 0 f s fun s => .next s

/-- STS (10 R156). -/
def execSts (f : Frame) (s : State) : Outcome State Fault Refusal :=
  onFrame 0x02 0 f s fun s => answerOk 0x02 f (statusBytes s) s

/-- RCF (10 R157). -/
def execRcf (f : Frame) (s : State) : Outcome State Fault Refusal :=
  onFrame 0x03 1 f s fun s =>
    match itemValue s.cfg (argument f 0 1) with
    | some v => answerOk 0x03 f (leBytes 1 (argument f 0 1) ++ leBytes 3 v) s
    | none => answerStatus 0x03 f .BAD_ARGUMENT s

/-- A configuration item written: LOW_WATER makes the watermark comparison, ALERT_MASK evaluates ALERT_N, the others
start no action (10 R158). -/
def applyItem (item : Nat) (cfg : ConfigItems) (s : State) : State :=
  if item = 3 then testLowWater none { s with cfg := cfg }
  else if item = 4 then { s with cfg := cfg, eq := evaluateAlert cfg.alertMask s.eq }
  else { s with cfg := cfg }

/-- WCF (10 R158). -/
def execWcf (f : Frame) (s : State) : Outcome State Fault Refusal :=
  onFrame 0x04 4 f s fun s =>
    match writeItem s.cfg (argument f 0 1) (argument f 1 3) with
    | some cfg => answerOk 0x04 f [] (applyItem (argument f 0 1) cfg s)
    | none => answerStatus 0x04 f .BAD_ARGUMENT s

/-- DRS (10 R161): the reset is made and ends in this event; the record is left in its reset state. -/
def execDrs (f : Frame) (upstreamFirst : Bool) (s : State) : Outcome State Fault Refusal :=
  onFrame 0x5A 0 f s fun s => .next (endReset upstreamFirst (resetDevice false s))

/-- BAD_FRAME (10 R154, check 1). The code is echoed from 8 bits on, the sequence from 16. A period without an SCK
edge is not a frame (10 R153); bits that pass check 1 are not this row (log 5). -/
def execBadFrame (bits : Nat) (bytes : List Byte) (s : State) : Outcome State Fault Refusal :=
  if !frameTaken s || bits == 0 then .next (closeFrame s)
  else if badBitCount bits then
    .next (writeRecord (if 8 ≤ bits then bytes.getD 0 0 else 0) (if 16 ≤ bits then bytes.getD 1 0 else 0)
      .BAD_FRAME none [] (closeFrame s))
  else .next s

/-- UNKNOWN_COMMAND (10 R154, check 2; check 1 comes first). A command code is not this row (log 5). -/
def execUnknownCommand (code : Byte) (f : Frame) (s : State) : Outcome State Fault Refusal :=
  onFrame code 0 f s fun t => if isCommandCode code then .next s else answerStatus code f .UNKNOWN t

/-- CS_N_FALLING_EDGE (10 R155, R160): MISO takes the record as it stands; a frame begun in reset will not be
taken. -/
def execCsNFallingEdge (s : State) : Outcome State Fault Refusal :=
  .next { s with mp := { s.mp with frame := some ⟨s.mp.reply, !s.held⟩ } }

end Sys2Proof.Machine
end

