-- ==== Sys2Proof/Machine/Regions.lean ====
section
/-! DEFINITION. The region commands: RGI, RGR, RGM, RGQ (01 R3 to R8). -/

namespace Sys2Proof.Machine

open Host (Outcome)

/-- The argument checks of RGI but for the mode (01 R3). -/
def regionArgumentsOk (slot base length : Nat) : Bool :=
  slot ≤ 7 && base < Config.lineSpace && length != 0 && length ≤ Config.partitionSize &&
    base + length ≤ Config.lineSpace

/-- The refusal tests of RGI, in order (01 R4). -/
def installRefusal (s : State) (k : Fin 8) (base length : Nat) : Option Reason :=
  if s.ec.stack ≠ [] then some .OPEN
  else if s.regions[k].installed then some .OCCUPIED
  else if (List.finRange 8).any fun j =>
      s.regions[j].installed && stretchesMeet base length s.regions[j].base.toNat s.regions[j].length then
    some .OVERLAP
  else none

/-- A slot of the region table written. -/
def setRegion (k : Fin 8) (r : Region) (s : State) : State :=
  { s with regions := s.regions.set k r }

/-- RGI (01 R3, R4): slot, base, length, mode. -/
def execRgi (f : Frame) (s : State) : Outcome State Fault Refusal :=
  onFrame 0x10 9 f s fun s =>
    match regionArgumentsOk (argument f 0 1) (argument f 1 5) (argument f 6 2), modeOfCode (argument f 8 1) with
    | true, some m =>
      match installRefusal s (Fin.ofNat 8 (argument f 0 1)) (argument f 1 5) (argument f 6 2) with
      | some r => answerRefused 0x10 f r s
      | none =>
        answerOk 0x10 f []
          (setRegion (Fin.ofNat 8 (argument f 0 1)) ⟨true, BitVec.ofNat 34 (argument f 1 5), argument f 6 2, m, 0⟩ s)
    | _, _ => answerStatus 0x10 f .BAD_ARGUMENT s

/-- RGR (01 R5): slot. -/
def execRgr (f : Frame) (s : State) : Outcome State Fault Refusal :=
  onFrame 0x11 1 f s fun s =>
    if 7 < argument f 0 1 then answerStatus 0x11 f .BAD_ARGUMENT s
    else if s.ec.stack ≠ [] then answerRefused 0x11 f .OPEN s
    else answerOk 0x11 f [] (setRegion (Fin.ofNat 8 (argument f 0 1)) .clear s)

/-- RGM (01 R6): slot, mode. -/
def execRgm (f : Frame) (s : State) : Outcome State Fault Refusal :=
  onFrame 0x12 2 f s fun s =>
    match modeOfCode (argument f 1 1) with
    | none => answerStatus 0x12 f .BAD_ARGUMENT s
    | some m =>
      let k : Fin 8 := Fin.ofNat 8 (argument f 0 1)
      if 7 < argument f 0 1 ∨ !s.regions[k].installed then answerStatus 0x12 f .BAD_ARGUMENT s
      else if s.ec.stack ≠ [] then answerRefused 0x12 f .OPEN s
      else answerOk 0x12 f [] (setRegion k { s.regions[k] with mode := m } s)

/-- RGQ (01 R7): slot. -/
def execRgq (f : Frame) (s : State) : Outcome State Fault Refusal :=
  onFrame 0x13 1 f s fun s =>
    if 7 < argument f 0 1 then answerStatus 0x13 f .BAD_ARGUMENT s
    else
      let k : Fin 8 := Fin.ofNat 8 (argument f 0 1)
      answerOk 0x13 f (regionBytes s.regions[k]) s

end Sys2Proof.Machine
end

