-- ==== Sys2Proof/Machine/Dispatch.lean ====
section
/-! DEFINITION. One arm per command: the command's effect on everything but the queue. -/

namespace Sys2Proof.Machine

def exec (i : Instr) (s : State) : Host.Outcome State Fault Refusal :=
  match i with
  | .rpy f => Sys2Proof.Machine.execRpy f s
  | .sts f => Sys2Proof.Machine.execSts f s
  | .rcf f => Sys2Proof.Machine.execRcf f s
  | .wcf f => Sys2Proof.Machine.execWcf f s
  | .rgi f => Sys2Proof.Machine.execRgi f s
  | .rgr f => Sys2Proof.Machine.execRgr f s
  | .rgm f => Sys2Proof.Machine.execRgm f s
  | .rgq f => Sys2Proof.Machine.execRgq f s
  | .mrk f => Sys2Proof.Machine.execMrk f s
  | .cmt f => Sys2Proof.Machine.execCmt f s
  | .rbk f => Sys2Proof.Machine.execRbk f s
  | .abn f => Sys2Proof.Machine.execAbn f s
  | .dsc f => Sys2Proof.Machine.execDsc f s
  | .epq f => Sys2Proof.Machine.execEpq f s
  | .jst f => Sys2Proof.Machine.execJst f s
  | .jrq f => Sys2Proof.Machine.execJrq f s
  | .jrd f => Sys2Proof.Machine.execJrd f s
  | .evp f => Sys2Proof.Machine.execEvp f s
  | .wts f => Sys2Proof.Machine.execWts f s
  | .wtq f => Sys2Proof.Machine.execWtq f s
  | .rls f => Sys2Proof.Machine.execRls f s
  | .rlq f => Sys2Proof.Machine.execRlq f s
  | .drs f b => Sys2Proof.Machine.execDrs f b s
  | .badFrame n l => Sys2Proof.Machine.execBadFrame n l s
  | .unknownCommand c f => Sys2Proof.Machine.execUnknownCommand c f s
  | .powerOn => Sys2Proof.Machine.execPowerOn s
  | .rstNReset => Sys2Proof.Machine.execRstNReset s
  | .resetEnd b => Sys2Proof.Machine.execResetEnd b s
  | .controlLineLevelChange l b => Sys2Proof.Machine.execControlLineLevelChange l b s
  | .markNFallingEdge => Sys2Proof.Machine.execMarkNFallingEdge s
  | .undoNFallingEdge => Sys2Proof.Machine.execUndoNFallingEdge s
  | .filterReArm l => Sys2Proof.Machine.execFilterReArm l s
  | .upstreamLinkDown => Sys2Proof.Machine.execUpstreamLinkDown s
  | .upstreamLinkUp => Sys2Proof.Machine.execUpstreamLinkUp s
  | .downstreamLinkDown => Sys2Proof.Machine.execDownstreamLinkDown s
  | .downstreamLinkUp => Sys2Proof.Machine.execDownstreamLinkUp s
  | .readRequest t l => Sys2Proof.Machine.execReadRequest t l s
  | .writeRequest t l m d => Sys2Proof.Machine.execWriteRequest t l m d s
  | .readReply t r => Sys2Proof.Machine.execReadReply t r s
  | .writeReply t r => Sys2Proof.Machine.execWriteReply t r s
  | .downstreamTimeout t => Sys2Proof.Machine.execDownstreamTimeout t s
  | .holdExpiry t => Sys2Proof.Machine.execHoldExpiry t s
  | .seenMarkExpiry k n => Sys2Proof.Machine.execSeenMarkExpiry k n s
  | .scrubberVisit => Sys2Proof.Machine.execScrubberVisit s
  | .drainCompletion => Sys2Proof.Machine.execDrainCompletion s
  | .rollbackEnd => Sys2Proof.Machine.execRollbackEnd s
  | .captureDecision t => Sys2Proof.Machine.execCaptureDecision t s
  | .forwardReadIssue t => Sys2Proof.Machine.execForwardReadIssue t s
  | .restoreWriteIssue => Sys2Proof.Machine.execRestoreWriteIssue s
  | .csNFallingEdge => Sys2Proof.Machine.execCsNFallingEdge s

end Sys2Proof.Machine
end

