-- ==== Sys2Proof/Safety.lean ====
section
/-! DEFINITION. What a safe run is, in the terms the statements use: no step faults, and the laws the manual states of
the whole device hold. Each law is a decidable predicate of one state; and the small conditions and readings that the
statements share. -/

namespace Sys2Proof.Safety

open Sys2Proof.Machine

/-! ## Laws of the state -/

/-- The queue holds at most 32 events and the lost count stays at 255 (09 R146, R147). -/
def queueBounded (s : State) : Prop := s.eq.queue.length ≤ Config.queueSize ∧ s.eq.lost ≤ Config.lostMax

/-- ALERT_N is asserted exactly while an event of an enabled kind is queued or the lost count is not 0 (09 R150). -/
def alertRight (s : State) : Prop :=
  s.eq.alert = true ↔ (∃ e ∈ s.eq.queue, s.cfg.alertMask.getLsbD e.kind.code = true) ∨ s.eq.lost ≠ 0

/-- The sequences of the queued events follow one another by one, and the counter stands one past the last
(09 R146). -/
def eventsNumbered (s : State) : Prop :=
  s.eq.queue.map (·.sequence) =
    (List.range s.eq.queue.length).map fun n => s.eq.counter - BitVec.ofNat 16 (s.eq.queue.length - n)

/-- The free list, the retiring list and the id sets on the stack hold every identifier 1 to 15 once (06 R102). -/
def identifiersPlaced (s : State) : Prop :=
  (s.ip.free ++ s.ip.retiring.map (·.id) ++ s.ec.stack.flatMap (·.ids)).Perm
    [1, 2, 3, 4, 5, 6, 7, 8, 9, 10, 11, 12, 13, 14, 15]

/-- The stamp law of 06 R106 with what keeps it: every stamp is NONE, retiring, or in an id set on the stack; while a
pass is in progress every retiring identifier waits for this pass or the next (R104), and the stamps already visited
hold none that waits for this one; with no pass in progress nothing retires. -/
def stampsAccounted (s : State) : Prop :=
  (∀ p ∈ s.stamps, p.2 ∈ s.ip.retiring.map (·.id) ∨ ∃ e ∈ s.ec.stack, p.2 ∈ e.ids) ∧
    (s.ss.sweeping = false → s.ip.retiring = []) ∧
    (∀ r ∈ s.ip.retiring, r.eligibleAfter = s.ss.pass ∨ r.eligibleAfter = s.ss.pass + 1) ∧
    ∀ r ∈ s.ip.retiring, r.eligibleAfter = s.ss.pass → ∀ p ∈ s.stamps, p.2 = r.id → s.ss.position.toNat ≤ p.1

/-- The levels of a stack given innermost first: the depth down to 1 (02 R18). -/
def levelsRight : List Epoch → Prop
  | [] => True
  | e :: r => e.level = r.length + 1 ∧ levelsRight r

/-- The stack law of 02 R18 and R33: at most four epochs, no gap in the levels, all but the innermost OPEN, sequences
strictly rising from level 1 and none above the counter. -/
def stackLawful (s : State) : Prop :=
  s.ec.stack.length ≤ Config.maxDepth ∧ levelsRight s.ec.stack ∧ (∀ e ∈ s.ec.stack.tail, e.state = .OPEN) ∧
    (s.ec.stack.map (·.sequence.toNat)).Pairwise (· > ·) ∧ ∀ e ∈ s.ec.stack, e.sequence ≤ s.ec.counter

/-- Pending is present exactly while an epoch is DRAINING, and so is the closing origin (02 R17, 05 R82). -/
def pendingLawful (s : State) : Prop :=
  (∀ e ∈ s.ec.stack, e.pending.isSome = true ↔ e.state = .DRAINING) ∧
    (s.ec.closingOrigin.isSome = true ↔ innermostState s = some .DRAINING)

/-- The sequencer has a record in progress only while the innermost epoch is RESTORING, and then its run is not empty
(05 R90). -/
def sequencerLawful (s : State) : Prop :=
  s.ec.sequencer ≠ .IDLE → ∃ e r, s.ec.stack = e :: r ∧ e.state = .RESTORING ∧ 1 ≤ e.runLength

/-- The runs, innermost first, follow one another from the tail: each begins where the one beneath it ends, and the
last index returned is where the innermost ends (03 R37). -/
def runsFrom (tail : Slot) : List Epoch → Option Slot
  | [] => some tail
  | e :: r =>
    match runsFrom tail r with
    | some p => if e.runStart = p then some (p + BitVec.ofNat 11 e.runLength) else none
    | none => none

/-- The ring law of 03 R36 and R37: the runs follow one another in level order from the tail, the innermost ends at the
head, and the used count is the sum of the run lengths. -/
def ringLawful (s : State) : Prop :=
  runsFrom s.jr.tail s.ec.stack = some s.jr.head ∧ usedCount s.jr = (s.ec.stack.map (·.runLength)).sum

/-- A record stands in exactly the slots of the used stretch, which starts at the tail (03 R36, R39). -/
def recordsPlaced (s : State) : Prop :=
  ∀ slot : Slot, (tableGet s.jr.records slot.toNat).isSome = true ↔ (slot - s.jr.tail).toNat < usedCount s.jr

/-- The tables' canonical forms: addresses strictly rising and in range, no NONE among the stamps, no empty chain
(01 R13, 03 R36, 04 R54, R63, 07 R117). -/
def tablesLawful (s : State) : Prop :=
  stampsWf s.stamps = true ∧ recordsWf s.jr.records = true ∧
    (tableWf s.contexts = true ∧ ∀ p ∈ s.contexts, p.1 < 32) ∧
    (tableWf s.lht = true ∧ ∀ p ∈ s.lht, p.1 < Config.lineSpace ∧ p.2 ≠ []) ∧
    (tableWf s.dp.tracker = true ∧ ∀ p ∈ s.dp.tracker, p.1 < 64) ∧
    (tableWf s.dp.quarantine = true ∧ ∀ p ∈ s.dp.quarantine, p.1 < 64)

/-- Every installed region has 1 to 32,768 lines inside the line space (01 R1, R3). -/
def regionsLawful (s : State) : Prop :=
  ∀ k : Fin 8, s.regions[k].installed = true →
    1 ≤ s.regions[k].length ∧ s.regions[k].length ≤ Config.partitionSize ∧
      s.regions[k].base.toNat + s.regions[k].length ≤ Config.lineSpace

/-- Two installed regions share no line (01 R4). -/
def regionsApart (s : State) : Prop :=
  ∀ j k : Fin 8, j ≠ k → ∀ line, ¬ (s.regions[j].covers line = true ∧ s.regions[k].covers line = true)

/-- No tag is both in use and quarantined (07 R117). -/
def tagsApart (s : State) : Prop :=
  ∀ t : DownTag, (tableGet s.dp.tracker t.val).isSome = true → (tableGet s.dp.quarantine t.val).isSome = false

/-- With the downstream link DOWN nothing is outstanding, quarantined or waiting for a tag (07 R128, R129). -/
def downLinkLawful (s : State) : Prop :=
  s.dp.link = .DOWN → s.dp.tracker = [] ∧ s.dp.quarantine = [] ∧ s.dp.tagWait = []

/-- No context lives and nothing is held while the upstream link is DOWN (07 R126). -/
def upLinkLawful (s : State) : Prop := s.upLink = .DOWN → s.contexts = [] ∧ s.holds = []

/-- The low-armed flag is what the last watermark comparison left: set exactly while the free count is not below
LOW_WATER (03 R47, with every change of the free count or of LOW_WATER compared). -/
def waterLawful (s : State) : Prop := s.jr.lowArmed = true ↔ s.cfg.lowWater ≤ freeCount s.jr

/-- Every host step of a chain, every hold-list entry and every host step that waits for a tag has a live context, for
the line it stands for (04 R54, R58, R63, 07 R119). -/
def workLawful (s : State) : Prop :=
  (∀ p ∈ s.lht, ∀ t, Step.host t ∈ p.2 → (contextOf s t).map (·.line.toNat) = some p.1) ∧
    (∀ h ∈ s.holds, (contextOf s h.tag).map (·.line) = some h.line) ∧
    ∀ t, Step.host t ∈ s.dp.tagWait → (contextOf s t).isSome = true

/-- The configuration items lie in their ranges (10 R157). -/
def configLawful (s : State) : Prop :=
  s.cfg.holdLimit ≤ 65535 ∧ 1 ≤ s.cfg.downTimeout ∧ s.cfg.downTimeout ≤ 65535 ∧ s.cfg.lowWater ≤ Config.ringSlots

/-! ## A safe run -/

/-- A step that faults. -/
def faults (s : State) : Prop := ∃ f, step s = .fault f

/-- A state from which no run of the device faults. -/
def safeFor : Nat → State → Prop
  | 0, _ => True
  | n + 1, s => ¬ faults s ∧ ∀ t, step s = .next t → safeFor n t

/-! ## Conditions and readings the statements share -/

/-- Nothing waits for a tag and no drain is in progress: an event ends with its own changes. -/
def quiet (s : State) : Prop := s.dp.tagWait = [] ∧ innermostState s ≠ some .DRAINING

/-- An event whose own changes end in `u`: `u` is the next state, but where the drain set of a DRAINING epoch is empty
there the drain completes in the same event, as DRAIN_COMPLETION does in `u` (05 R81). -/
def endsIn (o : Host.Outcome State Fault Refusal) (u : State) : Prop :=
  (innermostState u ≠ some .DRAINING ∨ drainSet u ≠ [] → o = .next u) ∧
    (innermostState u = some .DRAINING → drainSet u = [] → o = exec .drainCompletion u)

/-- A tag neither in use nor quarantined, with every lower one in use or quarantined (07 R117, R118). -/
def lowestFree (s : State) (tag : DownTag) : Prop :=
  tableGet s.dp.tracker tag.val = none ∧ tableGet s.dp.quarantine tag.val = none ∧
    ∀ u : DownTag, u < tag → tableGet s.dp.tracker u.val ≠ none ∨ tableGet s.dp.quarantine u.val ≠ none

/-- The little-endian field of n bytes at an offset of the reply record's result (10 R163). -/
def field (t : State) (offset n : Nat) : Nat := leNat ((t.mp.reply.result.toList.drop offset).take n)

/-- Bits lo to lo + n − 1 of the result byte at an offset (10 section 10.7). -/
def bits (t : State) (offset lo n : Nat) : Nat := field t offset 1 / 2 ^ lo % 2 ^ n

/-- A result of sixteen zero bytes. -/
def noResult : Vector Byte 16 := Vector.replicate 16 0

/-- The state with its frame over and its reply record written, and nothing else changed (10 R154, R155). -/
def answered (s : State) (code : Byte) (f : Frame) (st : ReplyStatus) (r : Option Reason) (result : Vector Byte 16) :
    State := { s with mp := ⟨⟨f.seq, code, st, r, result⟩, none⟩ }

/-- The state is another with its frame over and a command answered OK with some result, and nothing else changed. -/
def answersOk (s : State) (code : Byte) (f : Frame) (t : State) : Prop :=
  t = answered s code f .OK none t.mp.reply.result

/-- Frames are taken: the device is not held, and no frame in progress has met a reset (10 R155, R160). -/
def takesFrames (s : State) : Prop := s.held = false ∧ ∀ r, s.mp.frame ≠ some ⟨r, false⟩

/-- A frame of a command with `n` argument bytes that passes checks 1 and 3 of 10 R154. -/
def wholeFrame (f : Frame) (n : Nat) : Prop := n ≤ f.tail.length ∧ f.tail.length + 2 ≤ Config.frameBytes

/-- The rows of 10 section 10.3: a command's code, its argument length and its frame; none for the other rows. -/
def frameRow : Instr → Option (Byte × Nat × Frame)
  | .rpy f => some (0x01, 0, f)
  | .sts f => some (0x02, 0, f)
  | .rcf f => some (0x03, 1, f)
  | .wcf f => some (0x04, 4, f)
  | .rgi f => some (0x10, 9, f)
  | .rgr f => some (0x11, 1, f)
  | .rgm f => some (0x12, 2, f)
  | .rgq f => some (0x13, 1, f)
  | .mrk f => some (0x20, 0, f)
  | .cmt f => some (0x21, 0, f)
  | .rbk f => some (0x22, 0, f)
  | .abn f => some (0x23, 0, f)
  | .dsc f => some (0x24, 0, f)
  | .epq f => some (0x25, 1, f)
  | .jst f => some (0x30, 0, f)
  | .jrq f => some (0x31, 2, f)
  | .jrd f => some (0x32, 3, f)
  | .evp f => some (0x38, 0, f)
  | .wts f => some (0x40, 16, f)
  | .wtq f => some (0x41, 1, f)
  | .rls f => some (0x42, 9, f)
  | .rlq f => some (0x43, 1, f)
  | .drs f _ => some (0x5A, 0, f)
  | _ => none

/-- The epoch commands of 02 R24: code, operation and frame; none for the other rows. -/
def epochRow : Instr → Option (Byte × EpochOp × Frame)
  | .mrk f => some (0x20, .MRK, f)
  | .cmt f => some (0x21, .CMT, f)
  | .rbk f => some (0x22, .RBK, f)
  | .abn f => some (0x23, .ABN, f)
  | .dsc f => some (0x24, .DSC, f)
  | _ => none

/-- The innermost epoch, if any, is OPEN. -/
def openOrEmpty (s : State) : Prop := s.ec.stack = [] ∨ innermostState s = some .OPEN

/-- A step is a write in SPACE_WAIT. -/
def waitsForSpace (s : State) (st : Step) : Prop :=
  ∃ t c, st = .host t ∧ contextOf s t = some c ∧ c.state = .SPACE_WAIT

/-- A step is one a drain may wait for: a write QUEUED, CAPTURING or FORWARDED, or an orphaned CAPTURE_READ or
FORWARD_WRITE (05 R80). -/
def drainable (s : State) (st : Step) : Prop :=
  (∃ t c m d, st = .host t ∧ contextOf s t = some c ∧ c.request = .WRITE m d ∧
    (c.state = .QUEUED ∨ c.state = .CAPTURING ∨ c.state = .FORWARDED)) ∨
  (∃ g e, st = .orphan g ∧ tableGet s.dp.tracker g.val = some e ∧
    (e.purpose = .CAPTURE_READ ∨ e.purpose = .FORWARD_WRITE))

/-- The arguments of an RGI that 01 R3 rejects. -/
def regionArgumentsBad (f : Frame) : Prop :=
  7 < argument f 0 1 ∨ 2 ^ 34 ≤ argument f 1 5 ∨ argument f 6 2 = 0 ∨ 32768 < argument f 6 2 ∨
    2 ^ 34 < argument f 1 5 + argument f 6 2 ∨ 2 < argument f 8 1

/-- The arguments of a WTS that 08 R139 rejects. -/
def watchArgumentsBad (f : Frame) : Prop := 3 < argument f 0 1 ∨ 2 ^ 34 ≤ argument f 2 5 ∨ 15 < argument f 7 1

/-- The arguments of an RLS that 08 R140 rejects; member i is the byte at offset 3 + i, and only as many as the count
gives are read (10 R163). -/
def ruleArgumentsBad (f : Frame) : Prop :=
  1 < argument f 0 1 ∨ argument f 2 1 = 0 ∨ 3 < argument f 2 1 ∨
    (∃ i, i < argument f 2 1 ∧ 3 < argument f (3 + i) 1) ∨
    (∃ i j, i < j ∧ j < argument f 2 1 ∧ argument f (3 + i) 1 = argument f (3 + j) 1) ∨
    argument f 6 2 = 0 ∨ 3 < argument f 8 1

/-- The event queue after one event is posted: accepted at the back with the counter's value, or dropped and counted
when 32 are held; then ALERT_N evaluated (09 R146, R147, R150). -/
def posted (s : State) (kind : EventKind) (sequence : Option (BitVec 32)) (line : Option Line) (det : Nat) :
    EventQueue :=
  let q := if s.eq.queue.length < 32 then
      { s.eq with
        queue := s.eq.queue ++ [⟨s.eq.counter, kind, sequence, line, BitVec.ofNat 16 det⟩]
        counter := s.eq.counter + 1 }
    else { s.eq with lost := min (s.eq.lost + 1) 255 }
  { q with alert := q.queue.any (fun e => s.cfg.alertMask.getLsbD e.kind.code) || q.lost != 0 }

/-- The event queue after a watermark comparison with this free count (03 R47): JOURNAL_LOW is posted where the flag
was set and the free count is below LOW_WATER. -/
def waterTested (s : State) (free : Nat) (line : Option Line) : EventQueue :=
  if s.jr.lowArmed = true ∧ free < s.cfg.lowWater then posted s .JOURNAL_LOW (innermostSequence s) line free else s.eq

/-- The host requests: tag, line and what is asked; none for the other rows (07 R114). -/
def requestRow : Instr → Option (HostTag × Line × Request)
  | .readRequest t line => some (t, line, .READ)
  | .writeRequest t line m d => some (t, line, .WRITE m d)
  | _ => none

/-- A request with this tag is received and accepted: the device is not held, the upstream link is UP, and the tag has
no live context (07 R114, R115). -/
def accepts (s : State) (t : HostTag) : Prop := s.held = false ∧ s.upLink = .UP ∧ contextOf s t = none

/-- A step that reaches the front of its chain finds a tag at hand, this one (04 R67, 07 R118, R119). -/
def tagReady (s : State) (tag : DownTag) : Prop := s.dp.link = .UP ∧ lowestFree s tag ∧ s.dp.tagWait = []

/-- A request for the line goes through intake into its chain: PASS, a read to a FENCE line, or JOURNAL with the
innermost epoch OPEN or none (01 R9). -/
def entersChain (s : State) (line : Line) (r : Request) : Prop :=
  modeOf s line = .PASS ∨ (modeOf s line = .FENCE ∧ r = .READ) ∨ (modeOf s line = .JOURNAL ∧ openOrEmpty s)

/-- A write to the line that enters its chain needs no capture: the line is no JOURNAL line, or no epoch is on the
stack, or the innermost is broken or names the line's stamp (04 R69). -/
def needsNoCapture (s : State) (line : Line) : Prop :=
  modeOf s line ≠ .JOURNAL ∨ s.ec.stack = [] ∨
    ∃ e r k, s.ec.stack = e :: r ∧ lookup s line = some k ∧
      (e.broken = true ∨ stampGet s.stamps (stampIndex s k line) ∈ e.ids)

/-- A capture decision for the line calls for a capture under the innermost epoch `e`, whose own identifier is `own`:
the line lies in JOURNAL slot `k`, `e` is not broken, and its id set does not name the line's stamp (04 R69, tests 1
to 4). -/
def captureCalled (s : State) (line : Line) (k : Fin 8) (e : Epoch) (r : List Epoch) (own : Ident) : Prop :=
  lookup s line = some k ∧ s.regions[k].mode = .JOURNAL ∧ s.ec.stack = e :: r ∧ e.broken = false ∧
    e.ids.head? = some own ∧ stampGet s.stamps (stampIndex s k line) ∉ e.ids

/-- A write to the line needs a capture under the OPEN epoch `e` (04 R69). -/
def needsCapture (s : State) (line : Line) (k : Fin 8) (e : Epoch) (r : List Epoch) (own : Ident) : Prop :=
  captureCalled s line k e r own ∧ e.state = .OPEN

/-- A watch matches a write: enabled, the same line, the mask covers the four bytes of its word, and the word equals
its value in every bit its mask sets (08 R133). -/
abbrev watchMatches (w : Watch) (line : Line) (m : Mask) (d : Data) : Prop :=
  w.enabled = true ∧ w.line = line ∧ (∀ b : Fin 4, m.getLsbD (4 * w.word.val + b.val) = true) ∧
    ∀ b : Fin 32, w.mask.getLsbD b.val = true → d.getLsbD (32 * w.word.val + b.val) = w.value.getLsbD b.val

/-- No watch matches a write. -/
def unwatched (s : State) (line : Line) (m : Mask) (d : Data) : Prop :=
  ∀ k : Fin 4, ¬ watchMatches s.wu.watches[k] line m d

/-- A rule once a write has been shown: where it is enabled, the marks of the members whose watches match expire one
window from now (08 R135). -/
def ruleShown (s : State) (line : Line) (m : Mask) (d : Data) (r : Rule) : Rule :=
  if r.enabled = true then
    { r with members := r.members.map fun x =>
        if watchMatches s.wu.watches[x.watch] line m d then ⟨x.watch, some (s.now + 1000 * r.window)⟩ else x }
  else r

/-- A rule fires at a write: enabled, a member matched, every mark present (08 R136). -/
def ruleFires (s : State) (line : Line) (m : Mask) (d : Data) (r : Rule) : Prop :=
  r.enabled = true ∧ (∃ x ∈ r.members, watchMatches s.wu.watches[x.watch] line m d) ∧
    ∀ x ∈ (ruleShown s line m d r).members, x.mark.isSome = true

/-- The watch unit once a write has been shown and no rule has fired (08 R135). -/
def watchesShown (s : State) (line : Line) (m : Mask) (d : Data) : WatchUnit :=
  { s.wu with rules := s.wu.rules.map (ruleShown s line m d) }

/-- The hold list without a tag's entry. -/
def withoutHold (s : State) (t : HostTag) : List HoldEntry := s.holds.filter fun h => h.tag != t

/-- The tracker entry of a request issued now (07 R118). -/
def entryNow (s : State) (p : Purpose) (o : Owner) (line : Line) : TrackerEntry :=
  ⟨p, o, line, s.now + s.cfg.downTimeout, none, none⟩

/-- The scrubber after identifiers retire: a pass starts where it is IDLE and some retired (06 R103). -/
def scrubberAfter (s : State) (ids : List Ident) : Scrubber :=
  if ids ≠ [] ∧ s.ss.sweeping = false then ⟨true, 0, s.ss.pass + 1, s.now⟩ else s.ss

/-- The identifier pool after identifiers retire (06 R103, R104). -/
def poolAfter (s : State) (ids : List Ident) : IdPool :=
  { s.ip with retiring := s.ip.retiring ++ ids.map fun i => ⟨i, s.ss.pass + 1⟩ }

end Sys2Proof.Safety
end

