-- ==== Sys2Proof/WellFormed.lean ====
section
/-! DEFINITION. Which terms of Instr are commands that can reach the device: a frame of a known command holds at
most 24 bytes (10 R153), a BAD_FRAME frame fails check 1 of 10 R154 and carries the whole bytes it received, an
UNKNOWN_COMMAND frame's byte 0 is no command code. The other operands are of types that hold only legal values. -/

namespace Sys2Proof

/-- A frame that check 1 of 10 R154 lets pass: code, sequence and at most 22 bytes more. -/
def Frame.fits (f : Frame) : Bool := f.tail.length + 2 ≤ Config.frameBytes

/-- The checks on a command's operands. -/
def Instr.wellFormed : Instr → Bool
  | .rpy f => f.fits
  | .sts f => f.fits
  | .rcf f => f.fits
  | .wcf f => f.fits
  | .rgi f => f.fits
  | .rgr f => f.fits
  | .rgm f => f.fits
  | .rgq f => f.fits
  | .mrk f => f.fits
  | .cmt f => f.fits
  | .rbk f => f.fits
  | .abn f => f.fits
  | .dsc f => f.fits
  | .epq f => f.fits
  | .jst f => f.fits
  | .jrq f => f.fits
  | .jrd f => f.fits
  | .evp f => f.fits
  | .wts f => f.fits
  | .wtq f => f.fits
  | .rls f => f.fits
  | .rlq f => f.fits
  | .drs f _ => f.fits
  | .badFrame bits bytes => bits != 0 && badBitCount bits && bytes.length == bits / 8
  | .unknownCommand code f => f.fits && !isCommandCode code
  | .powerOn => true
  | .rstNReset => true
  | .resetEnd _ => true
  | .controlLineLevelChange _ _ => true
  | .markNFallingEdge => true
  | .undoNFallingEdge => true
  | .filterReArm _ => true
  | .upstreamLinkDown => true
  | .upstreamLinkUp => true
  | .downstreamLinkDown => true
  | .downstreamLinkUp => true
  | .readRequest _ _ => true
  | .writeRequest _ _ _ _ => true
  | .readReply _ _ => true
  | .writeReply _ _ => true
  | .downstreamTimeout _ => true
  | .holdExpiry _ => true
  | .seenMarkExpiry _ _ => true
  | .scrubberVisit => true
  | .drainCompletion => true
  | .rollbackEnd => true
  | .captureDecision _ => true
  | .forwardReadIssue _ => true
  | .restoreWriteIssue => true
  | .csNFallingEdge => true

end Sys2Proof
end

