-- ==== Sys2Proof/Certificates/Slice0/Obligations.lean ====
section
/-! DEFINITION. The statements for the provers. Each says in its docstring which rules of spec/ it formalises, or which
log entry it rests on. -/

open Sys2Proof Sys2Proof.Machine Sys2Proof.Safety

/-! ## The step -/

/-- A step takes the command at the front of the queue and is that command's effect on the state with the queue's
rest. (The form of a block's model.) -/
def Obligations.StepRunsTheFrontCommand : Prop :=
  ∀ (c : Instr) (rest : List Instr) (s : State), s.pending = c :: rest → step s = exec c { s with pending := rest }

/-- No command touches the queue of the commands that wait. (The form of a block's model.) -/
def Obligations.CommandsLeaveTheQueue : Prop :=
  ∀ (c : Instr) (s t : State), exec c s = .next t → t.pending = s.pending

/-! ## Frames (10 R153 to R155) -/

/-- The frame of every well-formed frame command, read again, is that command (10 R153, R154, section 10.3; the rows
that are no frames write none). -/
def Obligations.FramesReadBack : Prop :=
  ∀ i : Instr, i.wellFormed = true → ∀ n bytes, encodeFrame i = some (n, bytes) →
    decodeFrame n bytes (upstreamFirstOf i) = some i

/-- Every CS_N low period with an SCK edge is read into one well-formed command, and the command's own frame is that
period again (10 R153, R154, checks 1 and 2). -/
def Obligations.EveryFrameIsACommand : Prop :=
  ∀ (n : Nat) (bytes : List Byte) (b : Bool), n ≠ 0 → bytes.length = n / 8 →
    ∃ i, decodeFrame n bytes b = some i ∧ i.wellFormed = true ∧ encodeFrame i = some (n, bytes)

/-- A frame that a reset met, or that began or ends while the device is held, is not taken: the frame is over and nothing
else changes (10 R155, R160). Checks 1 to 3 of 10 R154: a frame of a known command with too few argument bytes, or of
more than 24 bytes, and a frame of fewer than 16 bits or of no whole bytes, is answered BAD_FRAME; a whole frame with no
command code UNKNOWN. The record echoes as many of code and sequence as were received, with no reason and an all-zero
result, and nothing is acted on. -/
def Obligations.FramesAreChecked : Prop :=
  (∀ (i : Instr) (s : State), (encodeFrame i).isSome = true →
     (s.held = true ∨ ∃ r, s.mp.frame = some ⟨r, false⟩) →
     exec i s = .next { s with mp := { s.mp with frame := none } }) ∧
  ((∀ (i : Instr) (code : Byte) (n : Nat) (f : Frame) (s : State), frameRow i = some (code, n, f) → takesFrames s →
      (f.tail.length < n ∨ 24 < f.tail.length + 2) →
      exec i s = .next (answered s code f .BAD_FRAME none noResult)) ∧
   ((∀ (n : Nat) (bytes : List Byte) (s : State), takesFrames s → 1 ≤ n →
      (n < 16 ∨ n % 8 ≠ 0 ∨ 192 < n) →
      exec (.badFrame n bytes) s = .next { s with mp :=
        ⟨⟨if 16 ≤ n then bytes.getD 1 0 else 0, if 8 ≤ n then bytes.getD 0 0 else 0, .BAD_FRAME, none, noResult⟩, none⟩ }) ∧
    (∀ (code : Byte) (f : Frame) (s : State), takesFrames s → wholeFrame f 0 → isCommandCode code = false →
      exec (.unknownCommand code f) s = .next (answered s code f .UNKNOWN none noResult))))

/-- The falling edge of CS_N takes the record as it stands into the frame, and a frame begun in reset will not be taken;
MISO then carries the record's 20 bytes in the order of section 10.7 and 0x00 for every further byte, and is
high-impedance in reset. A well-formed RPY leaves the record as it was (10 R155, R160, R163). What MISO carries in the
rest of a frame that a reset met is the model's choice: the record latched at the falling edge (log 13). -/
def Obligations.MisoCarriesTheRecord : Prop :=
  (∀ s : State, exec .csNFallingEdge s = .next { s with mp := { s.mp with frame := some ⟨s.mp.reply, !s.held⟩ } }) ∧
  (∀ (s : State) (r : ReplyRecord) (b : Bool) (n : Nat), s.mp.frame = some ⟨r, b⟩ → s.held = false →
    misoByte s n = some (
      if n = 0 then r.sequenceEcho
      else if n = 1 then r.commandCode
      else if n = 2 then BitVec.ofNat 8 r.status.code
      else if n = 3 then BitVec.ofNat 8 ((r.reason.map Reason.code).getD 0)
      else if n < 20 then r.result.toList.getD (n - 4) 0
      else 0)) ∧
  (∀ (s : State) (n : Nat), s.held = true → misoByte s n = none) ∧
  (∀ (f : Frame) (s : State), takesFrames s → wholeFrame f 0 →
    exec (.rpy f) s = .next { s with mp := { s.mp with frame := none } })

/-! ## Status and configuration (10 R156 to R158) -/

/-- STS answers OK with the items of 10 R156 at the places of section 10.7, and changes nothing but the reply record.
The hypotheses are the ranges the manual gives the items. -/
def Obligations.StatusIsReported : Prop :=
  ∀ (f : Frame) (s : State), takesFrames s → wholeFrame f 0 → s.ec.stack.length ≤ 4 → s.ip.free.length ≤ 15 →
    s.ip.retiring.length ≤ 15 → s.holds.length ≤ 32 → s.dp.tracker.length ≤ 64 → s.dp.quarantine.length ≤ 64 →
    ∃ t, exec (.sts f) s = .next t ∧ answersOk s 0x02 f t ∧
      bits t 0 0 3 = s.ec.stack.length ∧
      bits t 0 3 2 = ((innermostState s).map EpochState.code).getD 0 ∧
      bits t 0 5 1 = (if s.ss.sweeping then 1 else 0) ∧
      bits t 0 6 1 = (if s.upLink = .UP then 1 else 0) ∧
      bits t 0 7 1 = (if s.dp.link = .UP then 1 else 0) ∧
      bits t 1 0 4 = s.ip.free.length ∧ bits t 1 4 4 = s.ip.retiring.length ∧
      field t 2 3 = (if s.ss.sweeping then s.ss.position.toNat else 0) ∧
      field t 5 2 = s.ss.pass.toNat ∧ field t 7 1 = s.holds.length ∧
      field t 8 1 = s.dp.tracker.length ∧ field t 9 1 = s.dp.quarantine.length ∧ field t 10 6 = 0

/-- RCF: a code above 5 gives BAD_ARGUMENT; else OK, the item's code and its value, every other result byte 0 (10 R157,
section 10.7). Nothing but the reply record changes. -/
def Obligations.ConfigurationIsRead : Prop :=
  ∀ (f : Frame) (s : State), takesFrames s → wholeFrame f 1 → configLawful s →
    (5 < argument f 0 1 → exec (.rcf f) s = .next (answered s 0x03 f .BAD_ARGUMENT none noResult)) ∧
    (argument f 0 1 ≤ 5 → ∃ t, exec (.rcf f) s = .next t ∧ answersOk s 0x03 f t ∧
      field t 0 1 = argument f 0 1 ∧ field t 4 12 = 0 ∧
      (argument f 0 1 = 0 → field t 1 3 = s.cfg.capturePolicy.code) ∧
      (argument f 0 1 = 1 → field t 1 3 = s.cfg.holdLimit) ∧
      (argument f 0 1 = 2 → field t 1 3 = s.cfg.downTimeout) ∧
      (argument f 0 1 = 3 → field t 1 3 = s.cfg.lowWater) ∧
      (argument f 0 1 = 4 → field t 1 3 = s.cfg.alertMask.toNat) ∧
      (argument f 0 1 = 5 → field t 1 3 = s.cfg.lineEnable.toNat))

/-- WCF: the values 10 R158 rejects give BAD_ARGUMENT and change nothing; else OK with an empty result and the item
takes the value. LOW_WATER makes the watermark comparison of 03 R47, ALERT_MASK evaluates ALERT_N, the others start
nothing. -/
def Obligations.ConfigurationIsWritten : Prop :=
  ∀ (f : Frame) (s : State), takesFrames s → wholeFrame f 4 →
    ((5 < argument f 0 1 ∨ (argument f 0 1 = 0 ∧ 2 < argument f 1 3) ∨ (argument f 0 1 = 1 ∧ 65535 < argument f 1 3) ∨
      (argument f 0 1 = 2 ∧ (argument f 1 3 = 0 ∨ 65535 < argument f 1 3)) ∨
      (argument f 0 1 = 3 ∧ 2048 < argument f 1 3) ∨ (argument f 0 1 = 4 ∧ 2 ^ 17 ≤ argument f 1 3) ∨
      (argument f 0 1 = 5 ∧ 4 ≤ argument f 1 3)) →
      exec (.wcf f) s = .next (answered s 0x04 f .BAD_ARGUMENT none noResult)) ∧
    (argument f 0 1 = 0 → argument f 1 3 ≤ 2 → exec (.wcf f) s = .next (answered { s with cfg := { s.cfg with
      capturePolicy := if argument f 1 3 = 0 then .HOLD else if argument f 1 3 = 1 then .REFUSE else .BREAK } }
      0x04 f .OK none noResult)) ∧
    (argument f 0 1 = 1 → argument f 1 3 ≤ 65535 → exec (.wcf f) s = .next (answered { s with cfg := { s.cfg with
      holdLimit := argument f 1 3 } } 0x04 f .OK none noResult)) ∧
    (argument f 0 1 = 2 → 1 ≤ argument f 1 3 → argument f 1 3 ≤ 65535 → exec (.wcf f) s = .next (answered { s with
      cfg := { s.cfg with downTimeout := argument f 1 3 } } 0x04 f .OK none noResult)) ∧
    (argument f 0 1 = 3 → argument f 1 3 ≤ 2048 → exec (.wcf f) s = .next (answered { s with
      cfg := { s.cfg with lowWater := argument f 1 3 }
      jr := { s.jr with lowArmed := decide (argument f 1 3 ≤ freeCount s.jr) }
      eq := if s.jr.lowArmed = true ∧ freeCount s.jr < argument f 1 3 then
          posted s .JOURNAL_LOW (innermostSequence s) none (freeCount s.jr)
        else s.eq } 0x04 f .OK none noResult)) ∧
    (argument f 0 1 = 4 → argument f 1 3 < 2 ^ 17 → ∃ t, exec (.wcf f) s = .next t ∧
      t = answered { s with
        cfg := { s.cfg with alertMask := BitVec.ofNat 17 (argument f 1 3) }
        eq := { s.eq with alert := t.eq.alert } } 0x04 f .OK none noResult ∧ alertRight t) ∧
    (argument f 0 1 = 5 → argument f 1 3 ≤ 3 → exec (.wcf f) s = .next (answered { s with cfg := { s.cfg with
      lineEnable := BitVec.ofNat 2 (argument f 1 3) } } 0x04 f .OK none noResult))

/-! ## Region commands (01 R3 to R7) -/

/-- RGI: the argument checks of 01 R3, the refusal tests of R4 in their order, and the install, which writes one slot
and no stamp. -/
def Obligations.RegionsAreInstalled : Prop :=
  ∀ (f : Frame) (s : State) (k : Fin 8), takesFrames s → wholeFrame f 9 → regionsLawful s →
    (regionArgumentsBad f → exec (.rgi f) s = .next (answered s 0x10 f .BAD_ARGUMENT none noResult)) ∧
    (¬ regionArgumentsBad f → argument f 0 1 = k.val →
      (s.ec.stack ≠ [] → exec (.rgi f) s = .next (answered s 0x10 f .REFUSED (some .OPEN) noResult)) ∧
      (s.ec.stack = [] → s.regions[k].installed = true →
        exec (.rgi f) s = .next (answered s 0x10 f .REFUSED (some .OCCUPIED) noResult)) ∧
      (s.ec.stack = [] → s.regions[k].installed = false →
        (∃ (j : Fin 8) (line : Line), s.regions[j].covers line = true ∧ argument f 1 5 ≤ line.toNat ∧
          line.toNat < argument f 1 5 + argument f 6 2) →
        exec (.rgi f) s = .next (answered s 0x10 f .REFUSED (some .OVERLAP) noResult)) ∧
      (s.ec.stack = [] → s.regions[k].installed = false →
        (∀ (j : Fin 8) (line : Line), argument f 1 5 ≤ line.toNat → line.toNat < argument f 1 5 + argument f 6 2 →
          s.regions[j].covers line = false) →
        ∀ m, m.code = argument f 8 1 → exec (.rgi f) s = .next (answered { s with
          regions := s.regions.set k ⟨true, BitVec.ofNat 34 (argument f 1 5), argument f 6 2, m, 0⟩ }
          0x10 f .OK none noResult)))

/-- RGR: BAD_ARGUMENT, REFUSED with OPEN, or OK, where the slot becomes clear and no stamp is written (01 R5). RGM:
BAD_ARGUMENT for the slot, the mode or a slot that is not installed, REFUSED with OPEN, or OK, where the mode alone
changes (01 R6). RGQ: a slot above 7 gives BAD_ARGUMENT; else OK and the slot's fields, whatever the stack (01 R7). -/
def Obligations.RegionsChangeAndAreReported : Prop :=
  ((∀ (f : Frame) (s : State), takesFrames s → wholeFrame f 1 →
      (7 < argument f 0 1 → exec (.rgr f) s = .next (answered s 0x11 f .BAD_ARGUMENT none noResult)) ∧
      (∀ k : Fin 8, argument f 0 1 = k.val →
        (s.ec.stack ≠ [] → exec (.rgr f) s = .next (answered s 0x11 f .REFUSED (some .OPEN) noResult)) ∧
        (s.ec.stack = [] → exec (.rgr f) s =
          .next (answered { s with regions := s.regions.set k ⟨false, 0, 0, .PASS, 0⟩ } 0x11 f .OK none noResult)))) ∧
   (∀ (f : Frame) (s : State), takesFrames s → wholeFrame f 2 →
      (7 < argument f 0 1 ∨ 2 < argument f 1 1 →
        exec (.rgm f) s = .next (answered s 0x12 f .BAD_ARGUMENT none noResult)) ∧
      (∀ k : Fin 8, argument f 0 1 = k.val → s.regions[k].installed = false →
        exec (.rgm f) s = .next (answered s 0x12 f .BAD_ARGUMENT none noResult)) ∧
      (∀ (k : Fin 8) (m : Mode), argument f 0 1 = k.val → m.code = argument f 1 1 → s.regions[k].installed = true →
        (s.ec.stack ≠ [] → exec (.rgm f) s = .next (answered s 0x12 f .REFUSED (some .OPEN) noResult)) ∧
        (s.ec.stack = [] → exec (.rgm f) s =
          .next (answered { s with regions := s.regions.set k { s.regions[k] with mode := m } } 0x12 f .OK none noResult))))) ∧
  (∀ (f : Frame) (s : State), takesFrames s → wholeFrame f 1 →
     (7 < argument f 0 1 → exec (.rgq f) s = .next (answered s 0x13 f .BAD_ARGUMENT none noResult)) ∧
     (∀ k : Fin 8, argument f 0 1 = k.val → s.regions[k].length ≤ 32768 →
       ∃ t, exec (.rgq f) s = .next t ∧ answersOk s 0x13 f t ∧
         bits t 0 0 1 = (if s.regions[k].installed then 1 else 0) ∧ bits t 0 1 2 = s.regions[k].mode.code ∧
         field t 1 5 = s.regions[k].base.toNat ∧ field t 6 2 = s.regions[k].length ∧
         field t 8 4 = s.regions[k].count.toNat ∧ field t 12 4 = 0))

/-! ## Epoch commands (02 R24 to R34) -/

/-- The refusal tests of 02 R27: the first row of its table that applies to the operation and holds decides; none accepts.
An epoch command that a test refuses is answered REFUSED with that reason and an empty result; no event is posted and
nothing but the reply record changes (02 R27, R28). -/
def Obligations.EpochRequestsAreRefused : Prop :=
  (∀ (s : State) (op : EpochOp), refusalOf s op =
     (([(Reason.BUSY, [EpochOp.MRK, .CMT, .RBK, .ABN, .DSC],
           decide (innermostState s = some .DRAINING ∨ innermostState s = some .RESTORING)),
         (.HALTED, [.MRK, .CMT], decide (innermostState s = some .HALTED)),
         (.EMPTY, [.CMT, .RBK, .ABN, .DSC], decide (s.ec.stack = [])),
         (.DEPTH, [.MRK], decide (4 ≤ s.ec.stack.length)),
         (.NO_ID, [.MRK], decide (s.ip.free = [])),
         (.SEQUENCE, [.MRK], decide (s.ec.counter.toNat = 4294967295)),
         (.LINK_DOWN, [.RBK], decide (s.dp.link = .DOWN))] :
       List (Reason × List EpochOp × Bool)).find? fun r => r.2.1.contains op && r.2.2).map (·.1)) ∧
  (∀ (i : Instr) (code : Byte) (op : EpochOp) (f : Frame) (r : Reason) (s : State), epochRow i = some (code, op, f) →
     takesFrames s → wholeFrame f 0 → refusalOf s op = some r →
     exec i s = .next (answered s code f .REFUSED (some r) noResult))

/-- An accepted MRK of the management port: the counter goes up and gives the new epoch its sequence, the front of the
free list becomes its one identifier, its run starts at the head, OPENED is posted, and the reply carries sequence,
level and identifier. Nothing else changes (02 R28, R31 to R33). -/
def Obligations.MarkOpensAnEpoch : Prop :=
  ∀ (f : Frame) (s : State) (own : Ident) (rest : List Ident), takesFrames s → wholeFrame f 0 → openOrEmpty s →
    s.ec.stack.length < 4 → s.ip.free = own :: rest → s.ec.counter.toNat ≠ 4294967295 →
    ∃ t, exec (.mrk f) s = .next t ∧ t.mp.frame = none ∧
      t.mp.reply = ⟨f.seq, 0x20, .OK, none, t.mp.reply.result⟩ ∧
      field t 0 4 = s.ec.counter.toNat + 1 ∧ field t 4 1 = s.ec.stack.length + 1 ∧ field t 5 1 = own.toNat ∧
      field t 6 10 = 0 ∧
      t = { s with
        ec := { s.ec with
          stack := ⟨s.ec.counter + 1, s.ec.stack.length + 1, [own], s.jr.head, 0, .OPEN, none, false, .MGMT, 0⟩ ::
            s.ec.stack
          counter := s.ec.counter + 1 }
        ip := { s.ip with free := rest }
        eq := posted s .OPENED (some (s.ec.counter + 1)) none (s.ec.stack.length + 1 + 16 * own.toNat)
        mp := t.mp }

/-- A step is in the drain set exactly when it stands on the chain of a JOURNAL line, behind no write in SPACE_WAIT,
and is a write QUEUED, CAPTURING or FORWARDED, or an orphaned CAPTURE_READ or FORWARD_WRITE (05 R80). -/
def Obligations.DrainSetMembers : Prop :=
  ∀ (s : State) (st : Step), st ∈ drainSet s ↔
    ∃ p ∈ s.lht, ∃ before behind, p.2 = before ++ st :: behind ∧ isJournalLine s (BitVec.ofNat 34 p.1) = true ∧
      (∀ x ∈ before, ¬ waitsForSpace s x) ∧ drainable s st

/-- An accepted CMT, RBK, ABN or DSC: the innermost epoch becomes DRAINING with its operation pending, an RBK accepted
from OPEN sets restored to 0, and the reply carries its sequence and level. The epochs beneath, the journal, the stamps
and the identifiers do not change, and no event is posted (02 R28, R29). With writes to JOURNAL lines in flight that is
all. With an empty drain set the drain completes at the acceptance, as DRAIN_COMPLETION does in the state described
(05 R81). Two exits from HALTED written out: an RBK, with the newest record HELD, resumes the rollback with the restored
count kept and writes that record back (05 R98); an ABN releases the run as it stands, retires the identifiers and posts
ABANDONED (05 R99). The model's own `removedSome` is left free at the acceptance. -/
def Obligations.ClosingCommandsBeginADrain : Prop :=
  ∀ (i : Instr) (code : Byte) (op : EpochOp) (f : Frame) (s : State) (e : Epoch) (r : List Epoch),
    epochRow i = some (code, op, f) → op ≠ .MRK → takesFrames s → wholeFrame f 0 → s.ec.stack = e :: r → e.level ≤ 4 →
    (e.state = .OPEN ∨ (e.state = .HALTED ∧ op ≠ .CMT)) → (op = .RBK → s.dp.link = .UP) →
    (∃ t, (drainSet s ≠ [] → exec i s = .next t) ∧ (drainSet s = [] → exec i s = exec .drainCompletion t) ∧
      t.mp.frame = none ∧ t.mp.reply = ⟨f.seq, code, .OK, none, t.mp.reply.result⟩ ∧
      field t 0 4 = e.sequence.toNat ∧ field t 4 1 = e.level ∧ field t 5 11 = 0 ∧
      t = { s with
        ec := { s.ec with
          stack := { e with
            state := .DRAINING
            pending := match op with
              | .MRK => none
              | .CMT => some .COMMIT
              | .RBK => some .ROLLBACK
              | .ABN => some .ABANDON
              | .DSC => some .DISCARD
            restored := if op = .RBK ∧ e.state = .OPEN then 0 else e.restored } :: r
          closingOrigin := some .MGMT
          removedSome := t.ec.removedSome }
        mp := t.mp }) ∧
    (e.state = .HALTED → drainSet s = [] → s.holds = [] → (∀ x ∈ r, x.state = .OPEN) →
      (∀ (c : Record) (d : Data) (tag : DownTag), op = .RBK → e.broken = false → 1 ≤ e.runLength →
        s.ec.sequencer = .IDLE → tableGet s.jr.records (s.jr.head - 1).toNat = some c → c.state = .HELD →
        c.payload = some d → chainOf s c.line = [] → tagReady s tag → ∃ u, exec i s = .next u ∧ u = { s with
          ec := { s.ec with
            stack := { e with state := .RESTORING, pending := none } :: r
            closingOrigin := none
            sequencer := .WRITING (s.jr.head - 1) }
          jr := { s.jr with records := tableSet s.jr.records (s.jr.head - 1).toNat { c with state := .RESTORING } }
          lht := tableSet s.lht c.line.toNat [.restore (s.jr.head - 1)]
          dp := { s.dp with tracker := tableSet s.dp.tracker tag.val (entryNow s .RESTORE_WRITE .sequencer c.line) }
          downTx := s.downTx ++ [.write tag c.line (BitVec.allOnes 64) d]
          mp := u.mp }) ∧
      (op = .ABN → ringLawful s → waterLawful s → configLawful s → ∃ u, exec i s = .next u ∧ u = { s with
        ec := { s.ec with stack := r, closingOrigin := none }
        jr := ⟨if r = [] then s.jr.head else e.runStart, if r = [] then s.jr.head else s.jr.tail, u.jr.full, u.jr.records,
          decide (s.cfg.lowWater ≤ freeCount s.jr + e.runLength)⟩
        ip := poolAfter s e.ids
        ss := scrubberAfter s e.ids
        eq := posted s .ABANDONED (some e.sequence) none e.runLength
        mp := u.mp } ∧
        usedCount u.jr = usedCount s.jr - e.runLength ∧
        ∀ slot : Slot, tableGet u.jr.records slot.toNat =
          if (slot - e.runStart).toNat < e.runLength then none else tableGet s.jr.records slot.toNat))

/-- EPQ: a level of 0 or above 4 gives BAD_ARGUMENT; a level without an epoch reads all zero; else the record's fields
at the places of section 10.7 (02 R34). The hypotheses are the ranges of 02 R17. -/
def Obligations.EpochsAreReported : Prop :=
  ∀ (f : Frame) (s : State), takesFrames s → wholeFrame f 1 →
    (argument f 0 1 = 0 ∨ 4 < argument f 0 1 →
      exec (.epq f) s = .next (answered s 0x25 f .BAD_ARGUMENT none noResult)) ∧
    (1 ≤ argument f 0 1 → argument f 0 1 ≤ 4 → (∀ e ∈ s.ec.stack, e.level ≠ argument f 0 1) →
      exec (.epq f) s = .next (answered s 0x25 f .OK none noResult)) ∧
    (1 ≤ argument f 0 1 → argument f 0 1 ≤ 4 → levelsRight s.ec.stack → ∀ e ∈ s.ec.stack, e.level = argument f 0 1 →
      e.ids.length ≤ 4 → e.runLength ≤ 2048 → e.restored ≤ 2048 →
      ∃ t, exec (.epq f) s = .next t ∧ answersOk s 0x25 f t ∧
        bits t 0 0 1 = 1 ∧ bits t 0 1 3 = e.level ∧ bits t 0 4 3 = e.ids.length ∧ bits t 0 7 1 = 0 ∧
        bits t 1 0 4 = (e.ids.getD 0 0).toNat ∧ bits t 1 4 4 = (e.ids.getD 1 0).toNat ∧
        bits t 2 0 4 = (e.ids.getD 2 0).toNat ∧ bits t 2 4 4 = (e.ids.getD 3 0).toNat ∧
        field t 3 4 = e.sequence.toNat ∧ field t 7 2 = e.runStart.toNat ∧ field t 9 2 = e.runLength ∧
        bits t 11 0 2 = e.state.code ∧ bits t 11 2 3 = pendingCode e.pending ∧
        bits t 11 5 1 = (if e.broken then 1 else 0) ∧ bits t 11 6 2 = 0 ∧ field t 12 1 = e.origin.code ∧
        field t 13 2 = e.restored ∧ field t 15 1 = 0)

/-! ## Journal queries (03 R49 to R51) and the event pop (09 R148) -/

/-- JST: head, tail, used and free counts, and the numbers of RESERVED and VOID records (03 R36, R49). JRQ: an index
above 2047 gives BAD_ARGUMENT; a slot not in use reads NONE and all zero; else the record's metadata and the level of the
epoch whose run holds the slot (03 R36, R50). JRD: a slot above 2047 or a word above 15 gives
BAD_ARGUMENT; a HELD or RESTORING record in use gives present and word n of its payload, bytes 4n to 4n + 3 with byte 4n
least significant; else present is clear and the word reads 0 (03 R51). -/
def Obligations.JournalIsReported : Prop :=
  (∀ (f : Frame) (s : State), takesFrames s → wholeFrame f 0 →
     (s.jr.records.filter fun p => p.2.state == .RESERVED).length ≤ 64 →
     (s.jr.records.filter fun p => p.2.state == .VOID).length ≤ 2048 →
     ∃ t, exec (.jst f) s = .next t ∧ answersOk s 0x30 f t ∧
       field t 0 2 = s.jr.head.toNat ∧ field t 2 2 = s.jr.tail.toNat ∧
       field t 4 2 = (if s.jr.full then 2048 else (s.jr.head.toNat + 2048 - s.jr.tail.toNat) % 2048) ∧
       field t 4 2 + field t 6 2 = 2048 ∧
       field t 8 1 = (s.jr.records.filter fun p => p.2.state == .RESERVED).length ∧
       field t 9 2 = (s.jr.records.filter fun p => p.2.state == .VOID).length ∧ field t 11 5 = 0) ∧
  (∀ (f : Frame) (s : State), takesFrames s → wholeFrame f 2 →
     (2047 < argument f 0 2 → exec (.jrq f) s = .next (answered s 0x31 f .BAD_ARGUMENT none noResult)) ∧
     (∀ slot : Slot, argument f 0 2 = slot.toNat →
       (usedCount s.jr ≤ (slot - s.jr.tail).toNat → exec (.jrq f) s = .next (answered s 0x31 f .OK none noResult)) ∧
       (∀ (r : Record) (e : Epoch), (slot - s.jr.tail).toNat < usedCount s.jr →
         tableGet s.jr.records slot.toNat = some r → e ∈ s.ec.stack → e.level ≤ 4 →
         (slot - e.runStart).toNat < e.runLength →
         (∀ x ∈ s.ec.stack, (slot - x.runStart).toNat < x.runLength → x = e) →
         ∃ t, exec (.jrq f) s = .next t ∧ answersOk s 0x31 f t ∧
           bits t 0 0 1 = 1 ∧ bits t 0 1 3 = r.state.code ∧ bits t 0 4 3 = e.level ∧ bits t 0 7 1 = 0 ∧
           field t 1 5 = r.line.toNat ∧ bits t 6 0 3 = r.region.val ∧ bits t 6 3 1 = 0 ∧
           bits t 6 4 4 = r.captureId.toNat ∧ field t 7 4 = r.epochSequence.toNat ∧ field t 11 5 = 0))) ∧
  (∀ (f : Frame) (s : State), takesFrames s → wholeFrame f 3 →
     (2047 < argument f 0 2 ∨ 15 < argument f 2 1 →
       exec (.jrd f) s = .next (answered s 0x32 f .BAD_ARGUMENT none noResult)) ∧
     (∀ slot : Slot, argument f 0 2 = slot.toNat → argument f 2 1 ≤ 15 →
       (usedCount s.jr ≤ (slot - s.jr.tail).toNat → exec (.jrd f) s = .next (answered s 0x32 f .OK none noResult)) ∧
       (∀ r : Record, (slot - s.jr.tail).toNat < usedCount s.jr → tableGet s.jr.records slot.toNat = some r →
         (r.state = .RESERVED ∨ r.state = .VOID → exec (.jrd f) s = .next (answered s 0x32 f .OK none noResult)) ∧
         (∀ d, r.payload = some d → r.state = .HELD ∨ r.state = .RESTORING →
           ∃ t, exec (.jrd f) s = .next t ∧ answersOk s 0x32 f t ∧ field t 0 1 = 1 ∧
             field t 1 4 = d.toNat / 2 ^ (32 * argument f 2 1) % 2 ^ 32 ∧ field t 5 11 = 0))))

/-- EVP: the front event leaves the queue and is the result, with the lost count as taken and the number left; on an
empty queue present is clear and the event fields read 0. The lost count becomes 0, ALERT_N is evaluated, and nothing
else changes (09 R148, R150, 10 R163). -/
def Obligations.OldestEventIsPopped : Prop :=
  ∀ (f : Frame) (s : State), takesFrames s → wholeFrame f 0 → queueBounded s →
    ∃ t, exec (.evp f) s = .next t ∧ t.mp.frame = none ∧ t.mp.reply = ⟨f.seq, 0x38, .OK, none, t.mp.reply.result⟩ ∧
      t = { s with eq := ⟨s.eq.queue.tail, 0, s.eq.counter, t.eq.alert⟩, mp := t.mp } ∧ alertRight t ∧
      field t 14 1 = s.eq.lost ∧ field t 15 1 = s.eq.queue.length - 1 ∧
      (s.eq.queue = [] → field t 0 14 = 0) ∧
      (∀ e q, s.eq.queue = e :: q →
        bits t 0 0 5 = e.kind.code ∧ bits t 0 5 1 = 1 ∧ bits t 0 6 1 = (if e.epochSequence.isSome then 1 else 0) ∧
        bits t 0 7 1 = (if e.line.isSome then 1 else 0) ∧ field t 1 2 = e.sequence.toNat ∧
        field t 3 4 = (e.epochSequence.getD 0).toNat ∧ field t 7 5 = (e.line.getD 0).toNat ∧
        field t 12 2 = e.detail.toNat)

/-- An event offered while fewer than 32 are held joins at the back with the counter's value, and the counter goes up
by one; one offered while 32 are held is dropped, the counter and the queue stay, and the lost count goes up and stays
at 255. ALERT_N is then what its condition says (09 R146, R147, R150). -/
def Obligations.EventsAreAcceptedOrDropped : Prop :=
  ∀ (k : EventKind) (sq : Option (BitVec 32)) (l : Option Line) (d : BitVec 16) (s : State),
    (s.eq.queue.length < 32 →
      (postEvent k sq l d s).eq.queue = s.eq.queue ++ [⟨s.eq.counter, k, sq, l, d⟩] ∧
      (postEvent k sq l d s).eq.counter = s.eq.counter + 1 ∧ (postEvent k sq l d s).eq.lost = s.eq.lost) ∧
    (32 ≤ s.eq.queue.length → s.eq.lost ≤ 255 →
      (postEvent k sq l d s).eq.queue = s.eq.queue ∧ (postEvent k sq l d s).eq.counter = s.eq.counter ∧
      (postEvent k sq l d s).eq.lost = if s.eq.lost = 255 then 255 else s.eq.lost + 1) ∧
    alertRight (postEvent k sq l d s) ∧
    postEvent k sq l d s = { s with eq := (postEvent k sq l d s).eq }

/-! ## The watch unit (08) -/

/-- WTS: the arguments 08 R139 rejects give BAD_ARGUMENT and change nothing; else the watch takes every field, and in
each rule every member that names it has its mark absent. Other watches, members and marks are kept. RLS: the arguments
08 R140 rejects give BAD_ARGUMENT and change nothing; else the rule takes every field with every mark absent, and the
other rule is not changed. Only as many member bytes as the count gives are read (10 R163). -/
def Obligations.WatchesAndRulesAreWritten : Prop :=
  (∀ (f : Frame) (s : State), takesFrames s → wholeFrame f 16 →
     (watchArgumentsBad f → exec (.wts f) s = .next (answered s 0x40 f .BAD_ARGUMENT none noResult)) ∧
     (¬ watchArgumentsBad f → ∀ k : Fin 4, argument f 0 1 = k.val →
       ∃ t, exec (.wts f) s = .next t ∧ t = answered { s with wu := t.wu } 0x40 f .OK none noResult ∧
         (t.wu.watches[k].enabled = true ↔ argument f 1 1 % 2 = 1) ∧
         t.wu.watches[k].line.toNat = argument f 2 5 ∧ t.wu.watches[k].word.val = argument f 7 1 ∧
         t.wu.watches[k].value.toNat = argument f 8 4 ∧ t.wu.watches[k].mask.toNat = argument f 12 4 ∧
         (∀ j : Fin 4, j ≠ k → t.wu.watches[j] = s.wu.watches[j]) ∧
         ∀ j : Fin 2, t.wu.rules[j] = { s.wu.rules[j] with
           members := s.wu.rules[j].members.map fun m => if m.watch = k then ⟨m.watch, none⟩ else m })) ∧
  (∀ (f : Frame) (s : State), takesFrames s → wholeFrame f 9 →
     (ruleArgumentsBad f → exec (.rls f) s = .next (answered s 0x42 f .BAD_ARGUMENT none noResult)) ∧
     (¬ ruleArgumentsBad f → ∀ k : Fin 2, argument f 0 1 = k.val →
       ∃ t, exec (.rls f) s = .next t ∧ t = answered { s with wu := { s.wu with rules := t.wu.rules } } 0x42 f .OK none noResult ∧
         (t.wu.rules[k].enabled = true ↔ argument f 1 1 % 2 = 1) ∧
         (t.wu.rules[k].once = true ↔ argument f 1 1 / 2 % 2 = 1) ∧
         t.wu.rules[k].members.map (fun m => (m.watch.val, m.mark)) =
           (List.range (argument f 2 1)).map (fun i => (argument f (3 + i) 1, none)) ∧
         t.wu.rules[k].window = argument f 6 2 ∧ t.wu.rules[k].action.code = argument f 8 1 ∧
         ∀ j : Fin 2, j ≠ k → t.wu.rules[j] = s.wu.rules[j]))

/-- WTQ and RLQ: an index out of range gives BAD_ARGUMENT; else the fields as they stand, with each mark's time to
expiry in whole ms rounded up, 0 when absent (08 R141). The hypotheses are the ranges of 08 R134; a mark whose expiry
is reached and not yet taken is left out (log 21). -/
def Obligations.WatchesAndRulesAreReported : Prop :=
  ∀ (f : Frame) (s : State), takesFrames s → wholeFrame f 1 →
    (3 < argument f 0 1 → exec (.wtq f) s = .next (answered s 0x41 f .BAD_ARGUMENT none noResult)) ∧
    (∀ k : Fin 4, argument f 0 1 = k.val → ∃ t, exec (.wtq f) s = .next t ∧ answersOk s 0x41 f t ∧
      bits t 0 0 1 = (if s.wu.watches[k].enabled then 1 else 0) ∧ bits t 0 1 3 = 0 ∧
      bits t 0 4 4 = s.wu.watches[k].word.val ∧ field t 1 5 = s.wu.watches[k].line.toNat ∧
      field t 6 4 = s.wu.watches[k].value.toNat ∧ field t 10 4 = s.wu.watches[k].mask.toNat ∧ field t 14 2 = 0) ∧
    (1 < argument f 0 1 → exec (.rlq f) s = .next (answered s 0x43 f .BAD_ARGUMENT none noResult)) ∧
    (∀ k : Fin 2, argument f 0 1 = k.val → s.wu.rules[k].members.length ≤ 3 → s.wu.rules[k].window ≤ 65535 →
      (∀ m ∈ s.wu.rules[k].members, ∀ x, m.mark = some x → s.now < x ∧ x ≤ s.now + 65535000) →
      ∃ t, exec (.rlq f) s = .next t ∧ answersOk s 0x43 f t ∧
        bits t 0 0 1 = (if s.wu.rules[k].enabled then 1 else 0) ∧ bits t 0 1 1 = (if s.wu.rules[k].once then 1 else 0) ∧
        bits t 0 2 2 = s.wu.rules[k].members.length ∧ bits t 0 4 3 = s.wu.rules[k].action.code ∧ bits t 0 7 1 = 0 ∧
        field t 2 2 = s.wu.rules[k].window ∧ bits t 1 6 2 = 0 ∧ bits t 4 3 5 = 0 ∧ field t 11 5 = 0 ∧
        ∀ n : Fin 3,
          bits t 1 (2 * n.val) 2 = ((s.wu.rules[k].members[n.val]?).map (·.watch.val)).getD 0 ∧
          (bits t 4 n.val 1 = 1 ↔ ∃ w x, s.wu.rules[k].members[n.val]? = some ⟨w, some x⟩) ∧
          (∀ w x, s.wu.rules[k].members[n.val]? = some ⟨w, some x⟩ →
            field t (5 + 2 * n.val) 2 = (x - s.now + 999) / 1000) ∧
          ((∀ w x, s.wu.rules[k].members[n.val]? ≠ some ⟨w, some x⟩) → field t (5 + 2 * n.val) 2 = 0))

/-- At the expiry of a present mark the mark becomes absent and nothing else is done. Before the expiry nothing happens:
a renewed mark is not touched by its old expiry (08 R138; the clock decides, log 3). An absent mark does not expire
(log 5). -/
def Obligations.SeenMarksExpire : Prop :=
  ∀ (k : Fin 2) (n : Fin 3) (s : State),
    (∀ w x, s.wu.rules[k].members[n.val]? = some ⟨w, some x⟩ →
      (x ≤ s.now → exec (.seenMarkExpiry k n) s = .next { s with
        wu := { s.wu with rules := s.wu.rules.set k { s.wu.rules[k] with
          members := s.wu.rules[k].members.set n.val ⟨w, none⟩ } } }) ∧
      (s.now < x → exec (.seenMarkExpiry k n) s = .next s)) ∧
    ((∀ w x, s.wu.rules[k].members[n.val]? ≠ some ⟨w, some x⟩) → exec (.seenMarkExpiry k n) s = .next s)

/-! ## Resets and control lines (10 R159 to R162) -/

/-- POWER_ON and RST_N_RESET: every item of 10 R162 at its reset value, the device held, each filter as its line's
level gives it (R159), a frame in progress not to be taken (R160). The inputs, the clock, the sent messages and the
queue are not the device's to reset (log 11, log 13, log 15). -/
def Obligations.ResetsReturnEveryItem : Prop :=
  ∀ (i : Instr) (s : State), i = .powerOn ∨ i = .rstNReset → exec i s = .next { s with
    held := true
    pins := { s.pins with
      mark := ⟨s.pins.mark.high, if s.pins.mark.high then .HIGH else .LOW, s.now⟩
      undo := ⟨s.pins.undo.high, if s.pins.undo.high then .HIGH else .LOW, s.now⟩ }
    upLink := .DOWN
    regions := Vector.replicate 8 ⟨false, 0, 0, .PASS, 0⟩
    stamps := []
    ec := ⟨[], 0, none, .IDLE, false⟩
    jr := ⟨0, 0, false, [], true⟩
    ip := ⟨[1, 2, 3, 4, 5, 6, 7, 8, 9, 10, 11, 12, 13, 14, 15], []⟩
    ss := ⟨false, 0, 0, 0⟩
    contexts := []
    lht := []
    holds := []
    dp := ⟨.DOWN, [], [], []⟩
    wu := ⟨Vector.replicate 4 ⟨false, 0, 0, 0, 0⟩, Vector.replicate 2 ⟨false, [], 0, .MRK, false⟩⟩
    eq := ⟨[], 0, 0, false⟩
    cfg := ⟨.HOLD, 10000, 500, 256, 131071, 3⟩
    mp := ⟨⟨0, 0, .NONE, none, noResult⟩, s.mp.frame.map fun r => ⟨r.record, false⟩⟩ }

/-- RESET_END: a held device is held no longer, its filters start from the levels, and each link whose indication shows
up changes to UP and posts LINK_CHANGE, in the operand's order (10 R162, log 10); a device that is not held is left as
it is (log 5). DRS: the whole reset and its end in one event, the reply record left in its reset state (10 R161). -/
def Obligations.ResetsEnd : Prop :=
  (∀ (b : Bool) (s : State), s.held = false → exec (.resetEnd b) s = .next s) ∧
  (∀ (b : Bool) (s : State), s.held = true → ∃ u, exec (.resetEnd b) s = .next u ∧
    u = { s with
      held := false
      pins := { s.pins with
        mark := ⟨s.pins.mark.high, if s.pins.mark.high then .HIGH else .LOW, s.now⟩
        undo := ⟨s.pins.undo.high, if s.pins.undo.high then .HIGH else .LOW, s.now⟩ }
      upLink := if s.pins.upIndication then .UP else s.upLink
      dp := { s.dp with link := if s.pins.downIndication then .UP else s.dp.link }
      eq := u.eq } ∧
    (s.pins.upIndication = false → s.pins.downIndication = false → u.eq = s.eq) ∧
    (s.pins.upIndication = true → s.pins.downIndication = false → u.eq = posted s .LINK_CHANGE none none 256) ∧
    (s.pins.upIndication = false → s.pins.downIndication = true → u.eq = posted s .LINK_CHANGE none none 257) ∧
    (s.pins.upIndication = true → s.pins.downIndication = true → u.eq =
      posted { s with eq := posted s .LINK_CHANGE none none (if b then 256 else 257) } .LINK_CHANGE none none
        (if b then 257 else 256))) ∧
  (∀ (f : Frame) (b : Bool) (s : State), takesFrames s → wholeFrame f 0 → ∃ u, exec (.drs f b) s = .next u ∧
    u = { State.reset with
      pending := s.pending
      now := s.now
      pins := { s.pins with
        mark := ⟨s.pins.mark.high, if s.pins.mark.high then .HIGH else .LOW, s.now⟩
        undo := ⟨s.pins.undo.high, if s.pins.undo.high then .HIGH else .LOW, s.now⟩ }
      upLink := if s.pins.upIndication then .UP else .DOWN
      dp := ⟨if s.pins.downIndication then .UP else .DOWN, [], [], []⟩
      eq := u.eq
      upTx := s.upTx
      downTx := s.downTx } ∧
    alertRight u ∧ u.eq.lost = 0 ∧ u.eq.counter.toNat = u.eq.queue.length ∧
    u.eq.queue.map (fun e => (e.kind, e.detail.toNat, e.epochSequence, e.line)) =
      ((if b then [(s.pins.upIndication, 256), (s.pins.downIndication, 257)]
        else [(s.pins.downIndication, 257), (s.pins.upIndication, 256)]).filter (·.1)).map
        fun x => (.LINK_CHANGE, x.2, none, none))

/-- The filter of a control line (10 R159): a change of level starts it, or sends it back where it came from before it
had stood for 1 µs; the level that stays high for 1 µs re-arms it. In reset the level is seen and the filter not
followed (R160). Before the 1 µs has passed (log 3), at a level the line has already and on a line not RISING (log 5)
nothing changes. -/
def Obligations.LinesAreFiltered : Prop :=
  (∀ (l : ControlLine) (high : Bool) (s : State),
    ((lineFilter s l).high = high → exec (.controlLineLevelChange l high) s = .next s) ∧
    ((lineFilter s l).high ≠ high → s.held = true → exec (.controlLineLevelChange l high) s =
      .next (setLineFilter l ⟨high, (lineFilter s l).state, s.now⟩ s)) ∧
    (∀ st, (lineFilter s l).high ≠ high → s.held = false →
      (((lineFilter s l).state, high, st) ∈ [(FilterState.HIGH, false, FilterState.FALLING), (.FALLING, true, .HIGH),
        (.LOW, true, .RISING), (.RISING, false, .LOW)]) →
      exec (.controlLineLevelChange l high) s = .next (setLineFilter l ⟨high, st, s.now⟩ s))) ∧
  (∀ (l : ControlLine) (s : State),
    (s.held = false → (lineFilter s l).state = .RISING → (lineFilter s l).since + 1 ≤ s.now →
      exec (.filterReArm l) s = .next (setLineFilter l ⟨(lineFilter s l).high, .HIGH, s.now⟩ s)) ∧
    (s.held = true ∨ (lineFilter s l).state ≠ .RISING ∨ s.now < (lineFilter s l).since + 1 →
      exec (.filterReArm l) s = .next s))

/-- The qualified falling edge of MARK_N or UNDO_N (10 R159, 02 R24, R25, R28, R29): the filter goes LOW; with the line's
LINE_ENABLE flag clear nothing else happens; with it set the line asks for an MRK or an RBK, which is refused with a
REFUSED event, or accepted; an RBK accepted with an empty drain set, as always out of HALTED, completes its drain at the
acceptance, as DRAIN_COMPLETION does in the state described (05 R81, R98). Before the line has been low for 1 µs (log 3),
and for a filter that is not FALLING (log 5), nothing changes. -/
def Obligations.LineEdgesAskForEpochs : Prop :=
  ∀ s : State,
    let s1 : State := { s with pins := { s.pins with mark := ⟨s.pins.mark.high, .LOW, s.now⟩ } }
    let s2 : State := { s with pins := { s.pins with undo := ⟨s.pins.undo.high, .LOW, s.now⟩ } }
    (s.held = true ∨ s.pins.mark.state ≠ .FALLING ∨ s.now < s.pins.mark.since + 1 →
      exec .markNFallingEdge s = .next s) ∧
    (s.held = true ∨ s.pins.undo.state ≠ .FALLING ∨ s.now < s.pins.undo.since + 1 →
      exec .undoNFallingEdge s = .next s) ∧
    (s.held = false → s.pins.mark.state = .FALLING → s.pins.mark.since + 1 ≤ s.now →
      (s.cfg.lineEnable.getLsbD 0 = false → exec .markNFallingEdge s = .next s1) ∧
      (s.cfg.lineEnable.getLsbD 0 = true → ∀ r, refusalOf s .MRK = some r → exec .markNFallingEdge s =
        .next { s1 with eq := posted s .REFUSED (innermostSequence s) none (16 + 256 * r.code) }) ∧
      (s.cfg.lineEnable.getLsbD 0 = true → openOrEmpty s → s.ec.stack.length < 4 →
        s.ec.counter.toNat ≠ 4294967295 → ∀ own rest, s.ip.free = own :: rest → exec .markNFallingEdge s =
        .next { s1 with
          ec := { s.ec with
            stack := ⟨s.ec.counter + 1, s.ec.stack.length + 1, [own], s.jr.head, 0, .OPEN, none, false, .MARK_LINE, 0⟩ ::
              s.ec.stack
            counter := s.ec.counter + 1 }
          ip := { s.ip with free := rest }
          eq := posted s .OPENED (some (s.ec.counter + 1)) none (s.ec.stack.length + 1 + 16 * own.toNat + 256) })) ∧
    (s.held = false → s.pins.undo.state = .FALLING → s.pins.undo.since + 1 ≤ s.now →
      (s.cfg.lineEnable.getLsbD 1 = false → exec .undoNFallingEdge s = .next s2) ∧
      (s.cfg.lineEnable.getLsbD 1 = true → ∀ r, refusalOf s .RBK = some r → exec .undoNFallingEdge s =
        .next { s2 with eq := posted s .REFUSED (innermostSequence s) none (2 + 32 + 256 * r.code) }) ∧
      (s.cfg.lineEnable.getLsbD 1 = true → s.dp.link = .UP → ∀ e r, s.ec.stack = e :: r →
        e.state = .OPEN ∨ e.state = .HALTED → ∃ t, (drainSet s ≠ [] → exec .undoNFallingEdge s = .next t) ∧
        (drainSet s = [] → exec .undoNFallingEdge s = exec .drainCompletion t) ∧
        t = { s2 with ec := { s.ec with
          stack := { e with
            state := .DRAINING
            pending := some .ROLLBACK
            restored := if e.state = .OPEN then 0 else e.restored } :: r
          closingOrigin := some .UNDO_LINE
          removedSome := t.ec.removedSome } }))

/-! ## Host requests (01 R9, 04 R55 to R78, 07 R114 to R118) -/

/-- A request that enters an empty chain with the link UP and a tag at hand is forwarded at once with the lowest free
tag: a read, and a write with bytes to write that needs no capture, with the host's own mask and data. Its tracker entry
expires one DOWN_TIMEOUT from now. The watch unit is shown the write (04 R57, R66 to R71, 07 R118, 08 R132, R135);
the write's clause is for one that fires no rule. A hold-list entry of the tag itself, which no run leaves without a
context, would go. -/
def Obligations.RequestsAreForwarded : Prop :=
  ∀ (t : HostTag) (line : Line) (tag : DownTag) (s : State), accepts s t → chainOf s line = [] → tagReady s tag →
    (entersChain s line .READ → exec (.readRequest t line) s = .next { s with
      contexts := tableSet s.contexts t.val ⟨.READ, line, .FORWARDED, none, none, some tag⟩
      lht := tableSet s.lht line.toNat [.host t]
      dp := { s.dp with tracker := tableSet s.dp.tracker tag.val (entryNow s .FORWARD_READ (.context t) line) }
      downTx := s.downTx ++ [.read tag line] }) ∧
    (∀ (m : Mask) (d : Data), entersChain s line (.WRITE m d) → needsNoCapture s line → m ≠ 0 →
      (∀ k : Fin 2, ¬ ruleFires s line m d s.wu.rules[k]) →
      exec (.writeRequest t line m d) s = .next { s with
        contexts := tableSet s.contexts t.val ⟨.WRITE m d, line, .FORWARDED, none, none, some tag⟩
        lht := tableSet s.lht line.toNat [.host t]
        holds := withoutHold s t
        dp := { s.dp with tracker := tableSet s.dp.tracker tag.val (entryNow s .FORWARD_WRITE (.context t) line) }
        wu := watchesShown s line m d
        downTx := s.downTx ++ [.write tag line m d] })

/-- A write that needs a capture, with a slot free: the record is reserved at the head, the head and the run grow by
one, the stamp takes the epoch's own identifier, the old stamp is kept, the watermark is compared, and the line's
whole 64 bytes are read with the lowest free tag (03 R40, R47; 04 R69, R72; 07 R118). The write is not issued and
shown to no watch. -/
def Obligations.WritesAreCaptured : Prop :=
  ∀ (t : HostTag) (line : Line) (m : Mask) (d : Data) (tag : DownTag) (k : Fin 8) (e : Epoch) (r : List Epoch)
    (own : Ident) (s : State), accepts s t → chainOf s line = [] → tagReady s tag → m ≠ 0 →
    needsCapture s line k e r own → 1 ≤ freeCount s.jr →
    exec (.writeRequest t line m d) s = .next { s with
      contexts := tableSet s.contexts t.val ⟨.WRITE m d, line, .CAPTURING, some s.jr.head,
        some (stampGet s.stamps (k.val * 32768 + (line.toNat - s.regions[k].base.toNat))), some tag⟩
      lht := tableSet s.lht line.toNat [.host t]
      holds := withoutHold s t
      stamps := stampSet s.stamps (k.val * 32768 + (line.toNat - s.regions[k].base.toNat)) own
      ec := { s.ec with stack := { e with runLength := e.runLength + 1 } :: r }
      jr := {
        head := s.jr.head + 1
        tail := s.jr.tail
        full := decide (s.jr.head + 1 = s.jr.tail)
        records := tableSet s.jr.records s.jr.head.toNat ⟨line, k, own, e.sequence, .RESERVED, none⟩
        lowArmed := decide (s.cfg.lowWater ≤ freeCount s.jr - 1) }
      eq := waterTested s (freeCount s.jr - 1) (some line)
      dp := { s.dp with tracker := tableSet s.dp.tracker tag.val (entryNow s .CAPTURE_READ (.context t) line) }
      downTx := s.downTx ++ [.read tag line] }

/-- The capture policies at a write that needs a capture with no slot free (04 R75 to R78): HOLD leaves it at the front
of its chain in SPACE_WAIT, in the hold list with reason SPACE and no downstream tag; REFUSE answers REFUSED and posts
WRITE_REFUSED with reason 1; BREAK breaks every epoch on the stack, posts BROKEN with the depth and forwards the write
without a capture. -/
def Obligations.FullJournalsFollowThePolicy : Prop :=
  ∀ (t : HostTag) (line : Line) (m : Mask) (d : Data) (tag : DownTag) (k : Fin 8) (e : Epoch) (r : List Epoch)
    (own : Ident) (s : State), accepts s t → chainOf s line = [] → tagReady s tag → m ≠ 0 →
    needsCapture s line k e r own → freeCount s.jr = 0 → workLawful s → tablesLawful s →
    (s.cfg.capturePolicy = .HOLD → exec (.writeRequest t line m d) s = .next { s with
      contexts := tableSet s.contexts t.val ⟨.WRITE m d, line, .SPACE_WAIT, none, none, none⟩
      lht := tableSet s.lht line.toNat [.host t]
      holds := s.holds ++ [⟨t, line, .SPACE, if s.cfg.holdLimit = 0 then none else some (s.now + s.cfg.holdLimit)⟩] }) ∧
    (s.cfg.capturePolicy = .REFUSE → exec (.writeRequest t line m d) s = .next { s with
      upTx := s.upTx ++ [⟨t, .WRITE, .REFUSED, none⟩]
      eq := posted s .WRITE_REFUSED (some e.sequence) (some line) 1 }) ∧
    (s.cfg.capturePolicy = .BREAK → unwatched s line m d → exec (.writeRequest t line m d) s = .next { s with
      contexts := tableSet s.contexts t.val ⟨.WRITE m d, line, .FORWARDED, none, none, some tag⟩
      lht := tableSet s.lht line.toNat [.host t]
      ec := { s.ec with stack := s.ec.stack.map fun x => { x with broken := true } }
      eq := posted s .BROKEN (some e.sequence) (some line) s.ec.stack.length
      dp := { s.dp with tracker := tableSet s.dp.tracker tag.val (entryNow s .FORWARD_WRITE (.context t) line) }
      downTx := s.downTx ++ [.write tag line m d] })

/-- The intake of an accepted request (01 R9, 04 R57 to R59): a write to a FENCE line is answered FENCED and posts
WRITE_REFUSED with reason 0, whatever its mask; a request for a JOURNAL line is answered FENCED, without an event,
while the innermost epoch is HALTED, and is held with reason OPERATION at the end of the hold list while it is DRAINING
or RESTORING. None of these joins a chain or issues anything. -/
def Obligations.RequestsAreHeldOrFenced : Prop :=
  ∀ (i : Instr) (t : HostTag) (line : Line) (r : Request) (s : State), requestRow i = some (t, line, r) → accepts s t →
    workLawful s → tablesLawful s →
    (modeOf s line = .FENCE → r ≠ .READ → exec i s = .next { s with
      upTx := s.upTx ++ [⟨t, .WRITE, .FENCED, none⟩]
      eq := posted s .WRITE_REFUSED none (some line) 0 }) ∧
    (modeOf s line = .JOURNAL → innermostState s = some .HALTED → exec i s = .next { s with
      upTx := s.upTx ++ [⟨t, r.kind, .FENCED, none⟩] }) ∧
    (modeOf s line = .JOURNAL → innermostState s = some .DRAINING ∨ innermostState s = some .RESTORING →
      exec i s = .next { s with
        contexts := tableSet s.contexts t.val ⟨r, line, .HELD, none, none, none⟩
        holds := s.holds ++
          [⟨t, line, .OPERATION, if s.cfg.holdLimit = 0 then none else some (s.now + s.cfg.holdLimit)⟩] })

/-- Requests that need no memory. On an empty chain a write with an empty mask is answered OK, whatever the downstream
link (04 R66), and with that link DOWN every other request is answered ERROR, without an event (04 R67, 07 R129). A tag
with a live context is answered PROTOCOL and posts TAG_CONFLICT, the live context going on (07 R115). In reset, or with
the upstream link DOWN, nothing is received (07 R114, 10 R160). -/
def Obligations.RequestsAnsweredAtOnce : Prop :=
  ∀ (i : Instr) (t : HostTag) (line : Line) (r : Request) (s : State), requestRow i = some (t, line, r) →
    (s.held = true ∨ s.upLink = .DOWN → exec i s = .next s) ∧
    (s.held = false → s.upLink = .UP → ∀ c, contextOf s t = some c → exec i s = .next { s with
      upTx := s.upTx ++ [⟨t, r.kind, .PROTOCOL, none⟩]
      eq := posted s .TAG_CONFLICT none (some line) (t.val + if r = .READ then 0 else 256) }) ∧
    (accepts s t → workLawful s → tablesLawful s → chainOf s line = [] → entersChain s line r →
      (∀ d, r = .WRITE 0 d → exec i s = .next { s with upTx := s.upTx ++ [⟨t, .WRITE, .OK, none⟩] }) ∧
      ((∀ d, r ≠ .WRITE 0 d) → s.dp.link = .DOWN → exec i s = .next { s with
        upTx := s.upTx ++ [⟨t, r.kind, .ERROR, none⟩] }))

/-- Requests that wait. Behind a step whose access is outstanding a request joins the chain's end and nothing is issued
(04 R57, R63). At the front of an empty chain, with the link UP but no tag free, or with other steps already waiting, a
request that needs an access joins the back of the tag-wait list (04 R67, 07 R119; log 8). -/
def Obligations.RequestsWaitTheirTurn : Prop :=
  ∀ (i : Instr) (t : HostTag) (line : Line) (r : Request) (s : State), requestRow i = some (t, line, r) → accepts s t →
    workLawful s → tablesLawful s → entersChain s line r →
    (∀ st rest, chainOf s line = st :: rest → stepActive s st = true → exec i s = .next { s with
      contexts := tableSet s.contexts t.val ⟨r, line, .QUEUED, none, none, none⟩
      lht := tableSet s.lht line.toNat (st :: rest ++ [.host t]) }) ∧
    (chainOf s line = [] → (∀ d, r ≠ .WRITE 0 d) → s.dp.link = .UP →
      ((∀ tag, ¬ lowestFree s tag) ∨ s.dp.tagWait ≠ []) → exec i s = .next { s with
      contexts := tableSet s.contexts t.val ⟨r, line, .QUEUED, none, none, none⟩
      lht := tableSet s.lht line.toNat [.host t]
      dp := { s.dp with tagWait := s.dp.tagWait ++ [.host t] } })

/-! ## Memory replies, timeouts and expiries (03 R41, R42; 04 R60, R71 to R74; 07 R120 to R123) -/

/-- A reply that matches a forwarded request ends it: the tag is free, the context leaves its chain and is gone, and a
chain left empty has no entry. With OK the host gets OK on its own tag, with the data for a read; with ERROR DOWN_ERROR
is posted with the tag and the purpose, and the host is answered ERROR (04 R63, R68, R71; 07 R120, R121). Where the reply
to a write empties the drain set, the drain completes in the same event (05 R81). -/
def Obligations.RepliesEndRequests : Prop :=
  ∀ (tag : DownTag) (t : HostTag) (line : Line) (c : Context) (e : TrackerEntry) (s : State), s.held = false →
    s.upLink = .UP → s.dp.link = .UP → s.dp.tagWait = [] → tablesLawful s → tableGet s.dp.tracker tag.val = some e →
    e.owner = .context t → e.line = line → contextOf s t = some c → c.line = line → chainOf s line = [.host t] →
    let ended : State := { s with
      contexts := tableErase s.contexts t.val
      lht := tableErase s.lht line.toNat
      holds := withoutHold s t
      dp := { s.dp with tracker := tableErase s.dp.tracker tag.val } }
    let failed : State := { ended with
      upTx := s.upTx ++ [⟨t, c.request.kind, .ERROR, none⟩]
      eq := posted s .DOWN_ERROR none (some line) (tag.val + 256 * e.purpose.code) }
    (innermostState s ≠ some .DRAINING →
      (∀ d, e.purpose = .FORWARD_READ → c.request = .READ → exec (.readReply tag (.OK d)) s =
        .next { ended with upTx := s.upTx ++ [⟨t, .READ, .OK, some d⟩] }) ∧
      (∀ m d, e.purpose = .FORWARD_WRITE → c.request = .WRITE m d → exec (.writeReply tag .OK) s =
        .next { ended with upTx := s.upTx ++ [⟨t, .WRITE, .OK, none⟩] }) ∧
      ∀ i, (i = .readReply tag .ERROR ∧ e.purpose = .FORWARD_READ) ∨
        (i = .writeReply tag .ERROR ∧ e.purpose = .FORWARD_WRITE) → exec i s = .next failed) ∧
    (∀ m d, e.purpose = .FORWARD_WRITE → c.request = .WRITE m d →
      endsIn (exec (.writeReply tag .OK) s) { ended with upTx := s.upTx ++ [⟨t, .WRITE, .OK, none⟩] } ∧
      endsIn (exec (.writeReply tag .ERROR) s) failed)

/-- A capture read answered OK: the record becomes HELD with the line's 64 bytes, its region's capture count goes up by
one and stays at its last value, and the write is issued at once with a tag of its own, the lowest free with the read's
tag free again (01 R12; 03 R41; 04 R73; 07 R118, R120). Under a DRAINING epoch the drain goes on waiting for the write
(05 R80). The clauses are for a write no watch matches. An orphaned capture read answered OK makes the record HELD and
counts it, and ends: no write is issued, and the stamps stay; a drain that waited for it alone completes (05 R81, R83;
07 R127). -/
def Obligations.CaptureReadsHoldRecords : Prop :=
  ∀ (tag : DownTag) (line : Line) (d' : Data) (slot : Slot) (old : Option Ident) (r : Record) (x : Nat) (s : State),
    s.held = false → s.dp.link = .UP → s.dp.tagWait = [] → tableGet s.jr.records slot.toNat = some r →
    let held : State := { s with
      regions := s.regions.set r.region { s.regions[r.region] with
        count := if s.regions[r.region].count = 4294967295#32 then 4294967295#32 else s.regions[r.region].count + 1 }
      jr := { s.jr with records := tableSet s.jr.records slot.toNat { r with state := .HELD, payload := some d' } }
      dp := { s.dp with tracker := tableErase s.dp.tracker tag.val } }
    (∀ (tag' : DownTag) (t : HostTag) (m : Mask) (d : Data), unwatched s line m d →
      tableGet s.dp.tracker tag.val = some ⟨.CAPTURE_READ, .context t, line, x, none, none⟩ →
      contextOf s t = some ⟨.WRITE m d, line, .CAPTURING, some slot, old, some tag⟩ → lowestFree held tag' →
      (innermostState s ≠ some .DRAINING ∨ (isJournalLine s line = true ∧ chainOf s line = [.host t])) →
      exec (.readReply tag (.OK d')) s = .next { held with
        contexts := tableSet s.contexts t.val ⟨.WRITE m d, line, .FORWARDED, some slot, old, some tag'⟩
        holds := withoutHold s t
        dp := { held.dp with
          tracker := tableSet (tableErase s.dp.tracker tag.val) tag'.val (entryNow s .FORWARD_WRITE (.context t) line) }
        downTx := s.downTx ++ [.write tag' line m d] }) ∧
    (tableGet s.dp.tracker tag.val = some ⟨.CAPTURE_READ, .orphaned, line, x, some slot, old⟩ → tablesLawful s →
      chainOf s line = [.orphan tag] →
      (innermostState s ≠ some .DRAINING →
        exec (.readReply tag (.OK d')) s = .next { held with lht := tableErase s.lht line.toNat }) ∧
      endsIn (exec (.readReply tag (.OK d')) s) { held with lht := tableErase s.lht line.toNat })

/-- A capture read that fails, by an ERROR reply or at its timeout: DOWN_ERROR or DOWN_TIMEOUT, then the record VOID
without a payload, the stamp its old value where an epoch on the stack names it and else NONE, CAPTURE_FAILED with the
record's epoch sequence and slot, the write answered ERROR and not issued; a timeout quarantines the tag (03 R42; 04 R74;
07 R121, R122). An orphaned capture read fails in the same way by its kept old stamp, without a reply to the host
(07 R127). A drain that waited for it alone completes in the same event (05 R81, R83). -/
def Obligations.FailedCapturesAreVoid : Prop :=
  ∀ (tag : DownTag) (line : Line) (slot : Slot) (old : Ident) (k : Fin 8) (r : Record) (x : Nat) (s : State),
    s.dp.tagWait = [] → tablesLawful s → tableGet s.jr.records slot.toNat = some r → lookup s line = some k →
    let failed : State := { s with
      lht := tableErase s.lht line.toNat
      stamps := stampSet s.stamps (k.val * 32768 + (line.toNat - s.regions[k].base.toNat))
        (if s.ec.stack.any fun e => e.ids.contains old then old else 0)
      jr := { s.jr with records := tableSet s.jr.records slot.toNat { r with state := .VOID, payload := none } } }
    let byError : State := { failed with
      dp := { s.dp with tracker := tableErase s.dp.tracker tag.val }
      eq := posted { s with eq := posted s .DOWN_ERROR none (some line) (tag.val + 512) }
        .CAPTURE_FAILED (some r.epochSequence) (some line) slot.toNat }
    let byTimeout : State := { failed with
      dp := { s.dp with
        tracker := tableErase s.dp.tracker tag.val
        quarantine := tableSet s.dp.quarantine tag.val line }
      eq := posted { s with eq := posted s .DOWN_TIMEOUT none (some line) (tag.val + 512) }
        .CAPTURE_FAILED (some r.epochSequence) (some line) slot.toNat }
    (∀ (t : HostTag) (m : Mask) (d : Data), s.upLink = .UP → chainOf s line = [.host t] →
      tableGet s.dp.tracker tag.val = some ⟨.CAPTURE_READ, .context t, line, x, none, none⟩ →
      contextOf s t = some ⟨.WRITE m d, line, .CAPTURING, some slot, some old, some tag⟩ →
      let answered (u : State) : State := { u with
        contexts := tableErase s.contexts t.val
        holds := withoutHold s t
        upTx := s.upTx ++ [⟨t, .WRITE, .ERROR, none⟩] }
      (s.held = false → s.dp.link = .UP →
        (innermostState s ≠ some .DRAINING → exec (.readReply tag .ERROR) s = .next (answered byError)) ∧
        endsIn (exec (.readReply tag .ERROR) s) (answered byError)) ∧
      (x ≤ s.now →
        (innermostState s ≠ some .DRAINING → exec (.downstreamTimeout tag) s = .next (answered byTimeout)) ∧
        endsIn (exec (.downstreamTimeout tag) s) (answered byTimeout))) ∧
    (chainOf s line = [.orphan tag] →
      tableGet s.dp.tracker tag.val = some ⟨.CAPTURE_READ, .orphaned, line, x, some slot, some old⟩ →
      (s.held = false → s.dp.link = .UP →
        (innermostState s ≠ some .DRAINING → exec (.readReply tag .ERROR) s = .next byError) ∧
        endsIn (exec (.readReply tag .ERROR) s) byError) ∧
      (x ≤ s.now →
        (innermostState s ≠ some .DRAINING → exec (.downstreamTimeout tag) s = .next byTimeout) ∧
        endsIn (exec (.downstreamTimeout tag) s) byTimeout))

/-- The step behind a request that ends reaches the front in the same event (04 R65, R68; 07 R127). A read behind an
answered read, or behind an orphaned write whose reply arrives, is forwarded with the lowest free tag; on a JOURNAL line
it is answered FENCED while the innermost epoch is HALTED, and held with reason OPERATION while it is RESTORING. -/
def Obligations.StepsBehindReachTheFront : Prop :=
  ∀ (tag tag' : DownTag) (t u : HostTag) (line : Line) (c : Context) (e : TrackerEntry) (d : Data) (s : State),
    s.held = false → s.upLink = .UP → s.dp.link = .UP → quiet s → tablesLawful s → t ≠ u →
    tableGet s.dp.tracker tag.val = some e → e.line = line →
    contextOf s u = some ⟨.READ, line, .QUEUED, none, none, none⟩ →
    lowestFree { s with dp := { s.dp with tracker := tableErase s.dp.tracker tag.val } } tag' →
    (e.owner = .context t → e.purpose = .FORWARD_READ → contextOf s t = some c → c.request = .READ → c.line = line →
      chainOf s line = [.host t, .host u] →
      let ended : State := { s with
        contexts := tableErase s.contexts t.val
        holds := withoutHold s t
        dp := { s.dp with tracker := tableErase s.dp.tracker tag.val }
        upTx := s.upTx ++ [⟨t, .READ, .OK, some d⟩] }
      (modeOf s line ≠ .JOURNAL ∨ openOrEmpty s → exec (.readReply tag (.OK d)) s = .next { ended with
        contexts := tableSet ended.contexts u.val ⟨.READ, line, .FORWARDED, none, none, some tag'⟩
        lht := tableSet s.lht line.toNat [.host u]
        dp := { ended.dp with tracker := tableSet ended.dp.tracker tag'.val (entryNow s .FORWARD_READ (.context u) line) }
        downTx := s.downTx ++ [.read tag' line] }) ∧
      (modeOf s line = .JOURNAL → innermostState s = some .HALTED → exec (.readReply tag (.OK d)) s = .next { ended with
        contexts := tableErase ended.contexts u.val
        lht := tableErase s.lht line.toNat
        holds := withoutHold ended u
        upTx := ended.upTx ++ [⟨u, .READ, .FENCED, none⟩] }) ∧
      (modeOf s line = .JOURNAL → innermostState s = some .RESTORING → exec (.readReply tag (.OK d)) s =
        .next { ended with
          contexts := tableSet ended.contexts u.val ⟨.READ, line, .HELD, none, none, none⟩
          lht := tableErase s.lht line.toNat
          holds := withoutHold ended u ++
            [⟨u, line, .OPERATION, if s.cfg.holdLimit = 0 then none else some (s.now + s.cfg.holdLimit)⟩] })) ∧
    (e.owner = .orphaned → e.purpose = .FORWARD_WRITE → chainOf s line = [.orphan tag, .host u] →
      modeOf s line ≠ .JOURNAL ∨ openOrEmpty s → exec (.writeReply tag .OK) s = .next { s with
        contexts := tableSet s.contexts u.val ⟨.READ, line, .FORWARDED, none, none, some tag'⟩
        lht := tableSet s.lht line.toNat [.host u]
        dp := { s.dp with
          tracker := tableSet (tableErase s.dp.tracker tag.val) tag'.val (entryNow s .FORWARD_READ (.context u) line) }
        downTx := s.downTx ++ [.read tag' line] })

/-- A freed tag is handed to the step that waits first (07 R119): a read at the front of its chain is forwarded with
the lowest free tag when another line's read is answered. A captured write comes before it: where the capture read's
tag is the only free one, the write takes it and the read waits on (04 R73). A restore step comes before it too: where
the reply to a write empties the drain set of a rollback, the drain completes in the event, the newest record's step is
placed, and it takes the only free tag; the read waits on (05 R81, R90, R91; 07 R119, steps 2 and 3). -/
def Obligations.FreedTagsAreHandedOut : Prop :=
  ∀ (tag tag' : DownTag) (t u : HostTag) (line line' : Line) (d : Data) (s : State),
    s.held = false → s.upLink = .UP → s.dp.link = .UP → tablesLawful s → t ≠ u → line ≠ line' →
    s.dp.tagWait = [.host u] → contextOf s u = some ⟨.READ, line', .QUEUED, none, none, none⟩ →
    chainOf s line' = [.host u] →
    lowestFree { s with dp := { s.dp with tracker := tableErase s.dp.tracker tag.val } } tag' →
    (∀ c e, innermostState s ≠ some .DRAINING → modeOf s line' ≠ .JOURNAL ∨ openOrEmpty s →
      tableGet s.dp.tracker tag.val = some e → e.line = line → e.owner = .context t → e.purpose = .FORWARD_READ →
      contextOf s t = some c → c.request = .READ → c.line = line → chainOf s line = [.host t] →
      exec (.readReply tag (.OK d)) s = .next { s with
        contexts := tableSet (tableErase s.contexts t.val) u.val ⟨.READ, line', .FORWARDED, none, none, some tag'⟩
        lht := tableErase s.lht line.toNat
        holds := withoutHold s t
        dp := { s.dp with
          tracker := tableSet (tableErase s.dp.tracker tag.val) tag'.val (entryNow s .FORWARD_READ (.context u) line')
          tagWait := [] }
        upTx := s.upTx ++ [⟨t, .READ, .OK, some d⟩]
        downTx := s.downTx ++ [.read tag' line'] }) ∧
    (∀ m d' slot old r x, innermostState s ≠ some .DRAINING → modeOf s line' ≠ .JOURNAL ∨ openOrEmpty s →
      tableGet s.dp.tracker tag.val = some ⟨.CAPTURE_READ, .context t, line, x, none, none⟩ →
      contextOf s t = some ⟨.WRITE m d', line, .CAPTURING, some slot, old, some tag⟩ →
      tableGet s.jr.records slot.toNat = some r → unwatched s line m d' → (∀ g, ¬ lowestFree s g) →
      ∃ v, exec (.readReply tag (.OK d)) s = .next v ∧ v = { s with
        contexts := tableSet s.contexts t.val ⟨.WRITE m d', line, .FORWARDED, some slot, old, some tag⟩
        holds := withoutHold s t
        regions := v.regions
        jr := { s.jr with records := tableSet s.jr.records slot.toNat { r with state := .HELD, payload := some d } }
        dp := { s.dp with
          tracker := tableSet (tableErase s.dp.tracker tag.val) tag.val (entryNow s .FORWARD_WRITE (.context t) line) }
        downTx := s.downTx ++ [.write tag line m d'] }) ∧
    (∀ m d' old slot r e rest, tableGet s.dp.tracker tag.val = some e → e.owner = .context t →
      e.purpose = .FORWARD_WRITE → e.line = line →
      contextOf s t = some ⟨.WRITE m d', line, .FORWARDED, slot, old, some tag⟩ → chainOf s line = [.host t] → (∀ g, ¬ lowestFree s g) → ∀ p : Epoch, s.ec.stack = p :: rest → p.state = .DRAINING →
      p.pending = some .ROLLBACK → p.broken = false → 1 ≤ p.runLength → s.ec.sequencer = .IDLE →
      drainSet s = [.host t] → tableGet s.jr.records (s.jr.head - 1).toNat = some r → r.state = .HELD →
      r.payload = some d → chainOf s r.line = [] → exec (.writeReply tag .OK) s = .next { s with
        ec := { s.ec with
          stack := { p with state := .RESTORING, pending := none } :: rest
          closingOrigin := none
          sequencer := .WRITING (s.jr.head - 1) }
        jr := { s.jr with records := tableSet s.jr.records (s.jr.head - 1).toNat { r with state := .RESTORING } }
        contexts := tableErase s.contexts t.val
        lht := tableSet (tableErase s.lht line.toNat) r.line.toNat [.restore (s.jr.head - 1)]
        holds := withoutHold s t
        dp := { s.dp with
          tracker := tableSet (tableErase s.dp.tracker tag.val) tag'.val (entryNow s .RESTORE_WRITE .sequencer r.line)
          tagWait := [.host u] }
        upTx := s.upTx ++ [⟨t, .WRITE, .OK, none⟩]
        downTx := s.downTx ++ [.write tag' r.line (BitVec.allOnes 64) d] })

/-- Replies that belong to no request (07 R120, R123): late on a quarantined tag, whose quarantine it ends, with the
quarantined line; stray on a tag neither in use nor quarantined, without a line; of a kind that does not match the
purpose, where the entry stays. Each posts LATE_RESPONSE with its tag and mark and goes no further. On a DOWN link or in
reset no reply arrives (log 16). -/
def Obligations.UnownedRepliesAreDiscarded : Prop :=
  ∀ (i : Instr) (tag : DownTag) (s : State),
    ((∃ r, i = .readReply tag r) ∨ ∃ r, i = .writeReply tag r) →
    (s.held = true ∨ s.dp.link = .DOWN → exec i s = .next s) ∧
    (s.held = false → s.dp.link = .UP → tableGet s.dp.tracker tag.val = none →
      (∀ line, tableGet s.dp.quarantine tag.val = some line → quiet s → exec i s = .next { s with
        dp := { s.dp with quarantine := tableErase s.dp.quarantine tag.val }
        eq := posted s .LATE_RESPONSE none (some line) tag.val }) ∧
      (tableGet s.dp.quarantine tag.val = none → exec i s = .next { s with
        eq := posted s .LATE_RESPONSE none none (tag.val + 256) })) ∧
    (s.held = false → s.dp.link = .UP → ∀ e, tableGet s.dp.tracker tag.val = some e →
      ((∃ r, i = .readReply tag r) ↔ e.purpose = .FORWARD_WRITE ∨ e.purpose = .RESTORE_WRITE) →
      exec i s = .next { s with eq := posted s .LATE_RESPONSE none (some e.line) (tag.val + 512) })

/-- The timeout of a forwarded request: its entry is removed, its tag quarantined with its line, DOWN_TIMEOUT posted
with the tag and the purpose, and the host answered ERROR (07 R122); where that empties the drain set, the drain
completes in the same event (05 R81). Before the expiry nothing times out (log 3), and a tag without an entry has no
timeout (log 5). -/
def Obligations.DownstreamRequestsTimeOut : Prop :=
  ∀ (tag : DownTag) (s : State),
    (tableGet s.dp.tracker tag.val = none → exec (.downstreamTimeout tag) s = .next s) ∧
    (∀ e, tableGet s.dp.tracker tag.val = some e → s.now < e.expiry → exec (.downstreamTimeout tag) s = .next s) ∧
    (∀ (t : HostTag) (line : Line) (c : Context) (e : TrackerEntry), s.upLink = .UP → s.dp.tagWait = [] →
      tablesLawful s → tableGet s.dp.tracker tag.val = some e → e.expiry ≤ s.now → e.owner = .context t →
      e.line = line → e.purpose = .FORWARD_READ ∨ e.purpose = .FORWARD_WRITE → contextOf s t = some c →
      c.line = line → chainOf s line = [.host t] →
      let ended : State := { s with
        contexts := tableErase s.contexts t.val
        lht := tableErase s.lht line.toNat
        holds := withoutHold s t
        dp := { s.dp with
          tracker := tableErase s.dp.tracker tag.val
          quarantine := tableSet s.dp.quarantine tag.val line }
        upTx := s.upTx ++ [⟨t, c.request.kind, .ERROR, none⟩]
        eq := posted s .DOWN_TIMEOUT none (some line) (tag.val + 256 * e.purpose.code) }
      (innermostState s ≠ some .DRAINING → exec (.downstreamTimeout tag) s = .next ended) ∧
      endsIn (exec (.downstreamTimeout tag) s) ended)

/-- The expiry of a held request: it is answered EXPIRED, its context ends, and EXPIRED is posted with its tag and
reason (04 R60); a drain whose set is then empty completes in the same event (05 R81). Before the expiry nothing expires
(log 3); a tag without an entry, or whose entry has no expiry, does not expire (04 R59, R62; log 5). -/
def Obligations.HeldRequestsExpire : Prop :=
  ∀ (t : HostTag) (s : State),
    ((∀ h ∈ s.holds, h.tag = t → ∀ x, h.expiry = some x → s.now < x) → exec (.holdExpiry t) s = .next s) ∧
    (∀ (line : Line) (r : HoldReason) (x : Nat) (c : Context) (before behind : List HoldEntry),
      s.holds = before ++ ⟨t, line, r, some x⟩ :: behind → (∀ h ∈ before, h.tag ≠ t) → x ≤ s.now →
      contextOf s t = some c → c.line = line → chainOf s line = [] ∨ chainOf s line = [.host t] → s.upLink = .UP →
      s.dp.tagWait = [] → tablesLawful s →
      let ended : State := { s with
        contexts := tableErase s.contexts t.val
        lht := tableErase s.lht line.toNat
        holds := withoutHold s t
        upTx := s.upTx ++ [⟨t, c.request.kind, .EXPIRED, none⟩]
        eq := posted s .EXPIRED (innermostSequence s) (some line)
          (t.val + match r with | .OPERATION => 0 | .SPACE => 256) }
      (innermostState s ≠ some .DRAINING → exec (.holdExpiry t) s = .next ended) ∧
      endsIn (exec (.holdExpiry t) s) ended)

/-! ## The scrubber (06 R106 to R108) -/

/-- A visit: with no pass in progress there is none (log 5). The stamp at the position becomes NONE where a retiring
entry has its identifier, and is else left, and the position goes up by one. The last visit completes the pass: the
entries eligible after it return to the back of the free list in order, the others stay, the scrubber goes IDLE where
none stays and else starts the next pass at 0, and every kept old stamp that holds a returning identifier becomes
NONE (06 R105 to R108). -/
def Obligations.ScrubberVisitsStamps : Prop :=
  ∀ s : State,
    let stamp := stampGet s.stamps s.ss.position.toNat
    let stamps := if ∃ r ∈ s.ip.retiring, r.id = stamp then stampSet s.stamps s.ss.position.toNat 0 else s.stamps
    let done := s.ip.retiring.filter fun r => r.eligibleAfter == s.ss.pass
    let kept := s.ip.retiring.filter fun r => r.eligibleAfter != s.ss.pass
    (s.ss.sweeping = false → exec .scrubberVisit s = .next s) ∧
    (s.ss.sweeping = true → s.ss.position.toNat ≠ 262143 → exec .scrubberVisit s =
      .next { s with stamps := stamps, ss := { s.ss with position := s.ss.position + 1 } }) ∧
    (s.ss.sweeping = true → s.ss.position.toNat = 262143 → ∃ u, exec .scrubberVisit s = .next u ∧
      u = { s with
        stamps := stamps
        ip := ⟨s.ip.free ++ done.map (·.id), kept⟩
        ss := if kept = [] then ⟨false, 0, s.ss.pass, u.ss.started⟩ else ⟨true, 0, s.ss.pass + 1, s.now⟩
        contexts := u.contexts
        dp := { s.dp with tracker := u.dp.tracker } } ∧
      (∀ t, contextOf u t = (contextOf s t).map fun c =>
        if c.state = .CAPTURING ∧ ∃ r ∈ done, c.oldStamp = some r.id then { c with oldStamp := some 0 } else c) ∧
      ∀ tag : DownTag, tableGet u.dp.tracker tag.val = (tableGet s.dp.tracker tag.val).map fun e =>
        if ∃ r ∈ done, e.oldStamp = some r.id then { e with oldStamp := some 0 } else e)

/-! ## Closing operations (05 R81 to R96) -/

/-- DRAIN_COMPLETION with the drain set empty and a commit pending. At level 1 the run is released from the tail, which
leaves the ring empty, the identifiers retire with one eligible-after, a pass starts where none is in progress, and
COMMITTED is posted with detail 0. Above level 1 the run joins the parent's, the parent keeps its own fields, its id set
takes the child's identifiers behind its own where both together are four or fewer, and else the child's retire;
COMMITTED is posted with the low 16 bits of the parent's sequence, and the journal does not change. Neither memory nor a
stamp is touched (03 R43; 05 R85, R86; 06 R103, R104). The row is a part of another event (log 6). -/
def Obligations.CommitsReleaseOrMerge : Prop :=
  (∀ (e : Epoch) (s : State), s.ec.stack = [e] → e.state = .DRAINING → e.pending = some .COMMIT → drainSet s = [] →
     s.holds = [] → ringLawful s → waterLawful s → configLawful s →
     ∃ u, exec .drainCompletion s = .next u ∧ u = { s with
       ec := { s.ec with stack := [], closingOrigin := none }
       jr := ⟨s.jr.head, s.jr.head, false, u.jr.records, true⟩
       ip := poolAfter s e.ids
       ss := scrubberAfter s e.ids
       eq := posted s .COMMITTED (some e.sequence) none 0 } ∧
     ∀ slot : Slot, tableGet u.jr.records slot.toNat =
       if (slot - e.runStart).toNat < e.runLength then none else tableGet s.jr.records slot.toNat) ∧
  (∀ (e p : Epoch) (r : List Epoch) (s : State), s.ec.stack = e :: p :: r → e.state = .DRAINING →
     e.pending = some .COMMIT → p.state = .OPEN → drainSet s = [] → s.holds = [] →
     (p.ids.length + e.ids.length ≤ 4 → exec .drainCompletion s = .next { s with
       ec := { s.ec with
         stack := { p with runLength := p.runLength + e.runLength, ids := p.ids ++ e.ids } :: r
         closingOrigin := none }
       eq := posted s .COMMITTED (some e.sequence) none (p.sequence.toNat % 65536) }) ∧
     (4 < p.ids.length + e.ids.length → exec .drainCompletion s = .next { s with
       ec := { s.ec with
         stack := { p with runLength := p.runLength + e.runLength } :: r
         closingOrigin := none }
       ip := poolAfter s e.ids
       ss := scrubberAfter s e.ids
       eq := posted s .COMMITTED (some e.sequence) none (p.sequence.toNat % 65536) }))

/-- What a level-1 commit lets go on in its own event (03 R48; 04 R61, R71, R76; 05 R84): a write in SPACE_WAIT retries
and, the stack being empty, is forwarded uncaptured; a held request leaves the hold list, re-enters intake, and a read is
forwarded. Both take the lowest free tag; the write's clause is for one no watch matches. DRAIN_COMPLETION is a part of
another event (log 6). -/
def Obligations.CommitsReleaseWhatWaits : Prop :=
  ∀ (e : Epoch) (t : HostTag) (line : Line) (tag : DownTag) (x : Option Nat) (s : State), s.ec.stack = [e] →
    e.state = .DRAINING → e.pending = some .COMMIT → drainSet s = [] → 1 ≤ e.runLength → ringLawful s → waterLawful s →
    configLawful s → tagReady s tag →
    (∀ m d, s.holds = [⟨t, line, .SPACE, x⟩] → m ≠ 0 → unwatched s line m d →
      contextOf s t = some ⟨.WRITE m d, line, .SPACE_WAIT, none, none, none⟩ → chainOf s line = [.host t] →
      ∃ u, exec .drainCompletion s = .next u ∧ u = { s with
        ec := { s.ec with stack := [], closingOrigin := none }
        jr := ⟨s.jr.head, s.jr.head, false, u.jr.records, true⟩
        ip := poolAfter s e.ids
        ss := scrubberAfter s e.ids
        eq := posted s .COMMITTED (some e.sequence) none 0
        contexts := tableSet s.contexts t.val ⟨.WRITE m d, line, .FORWARDED, none, none, some tag⟩
        holds := []
        dp := { s.dp with tracker := tableSet s.dp.tracker tag.val (entryNow s .FORWARD_WRITE (.context t) line) }
        downTx := s.downTx ++ [.write tag line m d] }) ∧
    (s.holds = [⟨t, line, .OPERATION, x⟩] → contextOf s t = some ⟨.READ, line, .HELD, none, none, none⟩ →
      chainOf s line = [] → ∃ u, exec .drainCompletion s = .next u ∧ u = { s with
        ec := { s.ec with stack := [], closingOrigin := none }
        jr := ⟨s.jr.head, s.jr.head, false, u.jr.records, true⟩
        ip := poolAfter s e.ids
        ss := scrubberAfter s e.ids
        eq := posted s .COMMITTED (some e.sequence) none 0
        contexts := tableSet s.contexts t.val ⟨.READ, line, .FORWARDED, none, none, some tag⟩
        lht := tableSet s.lht line.toNat [.host t]
        holds := []
        dp := { s.dp with tracker := tableSet s.dp.tracker tag.val (entryNow s .FORWARD_READ (.context t) line) }
        downTx := s.downTx ++ [.read tag line] })

/-- An abandon releases the innermost run, from the tail at level 1 and from the head above it, retires the
identifiers and posts ABANDONED with the run length (05 R87). A discard abandons every epoch, innermost first: the ring
is left empty, with head and tail where the level-1 run ended and no record of any run, all the identifiers retire in
that order with one eligible-after, and one ABANDONED is posted for each epoch (03 R43, 05 R88, 06 R103). Memory is
not touched. The row is a part of another event (log 6). -/
def Obligations.AbandonedRunsAreReleased : Prop :=
  ∀ (e : Epoch) (r : List Epoch) (s : State), s.ec.stack = e :: r → e.state = .DRAINING →
    (∀ x ∈ r, x.state = .OPEN) → drainSet s = [] → s.holds = [] → ringLawful s → waterLawful s → configLawful s →
    (e.pending = some .ABANDON → ∃ u, exec .drainCompletion s = .next u ∧ u = { s with
      ec := { s.ec with stack := r, closingOrigin := none }
      jr := ⟨if r = [] then s.jr.head else e.runStart, if r = [] then s.jr.head else s.jr.tail, u.jr.full, u.jr.records,
        decide (s.cfg.lowWater ≤ freeCount s.jr + e.runLength)⟩
      ip := poolAfter s e.ids
      ss := scrubberAfter s e.ids
      eq := posted s .ABANDONED (some e.sequence) none e.runLength } ∧
      usedCount u.jr = usedCount s.jr - e.runLength ∧
      ∀ slot : Slot, tableGet u.jr.records slot.toNat =
        if (slot - e.runStart).toNat < e.runLength then none else tableGet s.jr.records slot.toNat) ∧
    (∀ outer, e.pending = some .DISCARD → s.ec.stack.getLast? = some outer → s.eq.queue.length + s.ec.stack.length ≤ 32 →
      ∃ u, exec .drainCompletion s = .next u ∧ u = { s with
        ec := { s.ec with stack := [], closingOrigin := none }
        jr := ⟨outer.runStart + BitVec.ofNat 11 outer.runLength, outer.runStart + BitVec.ofNat 11 outer.runLength, false,
          u.jr.records, true⟩
        ip := poolAfter s (s.ec.stack.flatMap (·.ids))
        ss := scrubberAfter s (s.ec.stack.flatMap (·.ids))
        eq := ⟨u.eq.queue, s.eq.lost, s.eq.counter + BitVec.ofNat 16 s.ec.stack.length, u.eq.alert⟩ } ∧
        (∀ slot : Slot, tableGet u.jr.records slot.toNat =
          if ∃ x ∈ s.ec.stack, (slot - x.runStart).toNat < x.runLength then none
          else tableGet s.jr.records slot.toNat) ∧
        u.eq.queue.take s.eq.queue.length = s.eq.queue ∧
        (u.eq.queue.drop s.eq.queue.length).map (fun x => (x.kind, x.epochSequence, x.line, x.detail)) =
          s.ec.stack.map fun x => (.ABANDONED, some x.sequence, none, BitVec.ofNat 16 x.runLength))

/-- A rollback whose drain completes. Broken, it is refused: the epoch is OPEN again and REFUSED is posted with
operation RBK, the closing origin and reason BROKEN. With an empty run it ends at once: the identifiers retire and
RESTORED is posted with the restored count; ROLLBACK_END of the epoch, RESTORING, is the same end. Else the epoch is
RESTORING, and the newest record, HELD, on a line without a chain and with a tag at hand, is written back at once: a
full mask, its payload, the lowest free tag, its record RESTORING (05 R89 to R91, R93). A newest record that is VOID is
removed without a write, and the HELD one beneath it is written back, or with none beneath the rollback ends (03 R44,
05 R90); the model's own `removedSome` is then left free. With the downstream link DOWN the epoch is HALTED with cause
LINK_DOWN (05 R91, R95). The rows are parts of other events (log 6). -/
def Obligations.RollbacksBegin : Prop :=
  ∀ (e : Epoch) (r : List Epoch) (o : Origin) (s : State), s.ec.stack = e :: r → e.state = .DRAINING →
    e.pending = some .ROLLBACK → s.ec.closingOrigin = some o → s.ec.sequencer = .IDLE → drainSet s = [] →
    s.holds = [] → (∀ x ∈ r, x.state = .OPEN) →
    (e.broken = true → exec .drainCompletion s = .next { s with
      ec := { s.ec with stack := { e with state := .OPEN, pending := none } :: r, closingOrigin := none }
      eq := posted s .REFUSED (some e.sequence) none (2 + 16 * o.code + 2048) }) ∧
    (e.broken = false → e.runLength = 0 →
      let ended : State := { s with
        ec := { s.ec with stack := r, closingOrigin := none }
        ip := poolAfter s e.ids
        ss := scrubberAfter s e.ids
        eq := posted s .RESTORED (some e.sequence) none e.restored }
      exec .drainCompletion s = .next ended ∧
        exec .rollbackEnd { s with ec := { s.ec with
          stack := { e with state := .RESTORING, pending := none } :: r
          closingOrigin := none } } = .next ended) ∧
    (∀ (c : Record) (d : Data) (tag : DownTag), e.broken = false → 1 ≤ e.runLength →
      tableGet s.jr.records (s.jr.head - 1).toNat = some c → c.state = .HELD → c.payload = some d →
      chainOf s c.line = [] → tagReady s tag → exec .drainCompletion s = .next { s with
        ec := { s.ec with
          stack := { e with state := .RESTORING, pending := none } :: r
          closingOrigin := none
          sequencer := .WRITING (s.jr.head - 1) }
        jr := { s.jr with records := tableSet s.jr.records (s.jr.head - 1).toNat { c with state := .RESTORING } }
        lht := tableSet s.lht c.line.toNat [.restore (s.jr.head - 1)]
        dp := { s.dp with tracker := tableSet s.dp.tracker tag.val (entryNow s .RESTORE_WRITE .sequencer c.line) }
        downTx := s.downTx ++ [.write tag c.line (BitVec.allOnes 64) d] }) ∧
    (∀ c v : Record, e.broken = false → ringLawful s → waterLawful s →
      tableGet s.jr.records (s.jr.head - 1).toNat = some v → v.state = .VOID →
      (∀ (d : Data) (tag : DownTag), 2 ≤ e.runLength → tableGet s.jr.records (s.jr.head - 2).toNat = some c →
        c.state = .HELD → c.payload = some d → chainOf s c.line = [] → tagReady s tag →
        ∃ u, exec .drainCompletion s = .next u ∧ u = { s with
          ec := { s.ec with
            stack := { e with state := .RESTORING, pending := none, runLength := e.runLength - 1 } :: r
            closingOrigin := none
            sequencer := .WRITING (s.jr.head - 2)
            removedSome := u.ec.removedSome }
          jr := ⟨s.jr.head - 1, s.jr.tail, false,
            tableSet (tableErase s.jr.records (s.jr.head - 1).toNat) (s.jr.head - 2).toNat { c with state := .RESTORING },
            decide (s.cfg.lowWater ≤ freeCount s.jr + 1)⟩
          lht := tableSet s.lht c.line.toNat [.restore (s.jr.head - 2)]
          dp := { s.dp with tracker := tableSet s.dp.tracker tag.val (entryNow s .RESTORE_WRITE .sequencer c.line) }
          downTx := s.downTx ++ [.write tag c.line (BitVec.allOnes 64) d] }) ∧
      (e.runLength = 1 → ∃ u, exec .drainCompletion s = .next u ∧ u = { s with
        ec := { s.ec with stack := r, closingOrigin := none, removedSome := u.ec.removedSome }
        jr := ⟨s.jr.head - 1, s.jr.tail, false, tableErase s.jr.records (s.jr.head - 1).toNat,
          decide (s.cfg.lowWater ≤ freeCount s.jr + 1)⟩
        ip := poolAfter s e.ids
        ss := scrubberAfter s e.ids
        eq := posted s .RESTORED (some e.sequence) none e.restored })) ∧
    (∀ c : Record, e.broken = false → 1 ≤ e.runLength → s.dp.link = .DOWN → s.lht = [] → s.dp.tagWait = [] →
      tableGet s.jr.records (s.jr.head - 1).toNat = some c → c.state = .HELD →
      exec .drainCompletion s = .next { s with
        ec := { s.ec with stack := { e with state := .HALTED, pending := none } :: r, closingOrigin := none }
        jr := { s.jr with records := tableSet s.jr.records (s.jr.head - 1).toNat c }
        eq := posted s .HALTED (some e.sequence) (some c.line) ((s.jr.head - 1).toNat + 8192) })

/-- A restore write answered OK removes its record, the newest: the head steps back, the run shrinks, restored goes up
by one. Where the next newest record is HELD, on a line without another step, it is taken up in the same event and
written back with the lowest free tag. Where it is the last and VOID, it is removed too, without a write. Where the run
is then empty the rollback ends in the same event, with the identifiers retired and RESTORED posted (03 R44, 05 R90 to
R93). ROLLBACK_END is that end; where no rollback is over it changes nothing (log 5, log 6). The model's own
`removedSome` is left free. -/
def Obligations.RestoreWritesRemoveRecords : Prop :=
  ∀ (e : Epoch) (r : List Epoch) (s : State), s.ec.stack = e :: r → e.state = .RESTORING →
    (∀ x ∈ r, x.state = .OPEN) → s.holds = [] → s.dp.tagWait = [] →
    (∀ (tag : DownTag) (line : Line) (x : Nat) (c : Record), s.held = false → s.dp.link = .UP →
      s.ec.sequencer = .WRITING (s.jr.head - 1) → ringLawful s → waterLawful s → tablesLawful s →
      tableGet s.jr.records (s.jr.head - 1).toNat = some c → c.line = line →
      tableGet s.dp.tracker tag.val = some ⟨.RESTORE_WRITE, .sequencer, line, x, none, none⟩ →
      chainOf s line = [.restore (s.jr.head - 1)] →
      let freed : State := { s with dp := { s.dp with tracker := tableErase s.dp.tracker tag.val } }
      (e.runLength = 1 → ∃ u, exec (.writeReply tag .OK) s = .next u ∧ u = { freed with
        ec := { s.ec with stack := r, closingOrigin := none, sequencer := .IDLE, removedSome := u.ec.removedSome }
        jr := ⟨s.jr.head - 1, s.jr.tail, false, tableErase s.jr.records (s.jr.head - 1).toNat,
          decide (s.cfg.lowWater ≤ freeCount s.jr + 1)⟩
        lht := tableErase s.lht line.toNat
        ip := poolAfter s e.ids
        ss := scrubberAfter s e.ids
        eq := posted s .RESTORED (some e.sequence) none (e.restored + 1) }) ∧
      (∀ (c' : Record) (d : Data) (tag' : DownTag), 2 ≤ e.runLength →
        tableGet s.jr.records (s.jr.head - 2).toNat = some c' → c'.state = .HELD → c'.payload = some d →
        c'.line = line ∨ chainOf s c'.line = [] → lowestFree freed tag' →
        ∃ u, exec (.writeReply tag .OK) s = .next u ∧ u = { freed with
          ec := { s.ec with
            stack := { e with runLength := e.runLength - 1, restored := e.restored + 1 } :: r
            sequencer := .WRITING (s.jr.head - 2)
            removedSome := u.ec.removedSome }
          jr := ⟨s.jr.head - 1, s.jr.tail, false,
            tableSet (tableErase s.jr.records (s.jr.head - 1).toNat) (s.jr.head - 2).toNat { c' with state := .RESTORING },
            decide (s.cfg.lowWater ≤ freeCount s.jr + 1)⟩
          lht := tableSet (tableErase s.lht line.toNat) c'.line.toNat [.restore (s.jr.head - 2)]
          dp := { freed.dp with
            tracker := tableSet freed.dp.tracker tag'.val (entryNow s .RESTORE_WRITE .sequencer c'.line) }
          downTx := s.downTx ++ [.write tag' c'.line (BitVec.allOnes 64) d] }) ∧
      (∀ v : Record, e.runLength = 2 → tableGet s.jr.records (s.jr.head - 2).toNat = some v → v.state = .VOID →
        ∃ u, exec (.writeReply tag .OK) s = .next u ∧ u = { freed with
          ec := { s.ec with stack := r, closingOrigin := none, sequencer := .IDLE, removedSome := u.ec.removedSome }
          jr := ⟨s.jr.head - 2, s.jr.tail, false,
            tableErase (tableErase s.jr.records (s.jr.head - 1).toNat) (s.jr.head - 2).toNat,
            decide (s.cfg.lowWater ≤ freeCount s.jr + 2)⟩
          lht := tableErase s.lht line.toNat
          ip := poolAfter s e.ids
          ss := scrubberAfter s e.ids
          eq := posted s .RESTORED (some e.sequence) none (e.restored + 1) })) ∧
    (s.ec.sequencer = .IDLE → e.runLength = 0 → exec .rollbackEnd s = .next { s with
      ec := { s.ec with stack := r, closingOrigin := none }
      ip := poolAfter s e.ids
      ss := scrubberAfter s e.ids
      eq := posted s .RESTORED (some e.sequence) none e.restored }) ∧
    (s.ec.sequencer ≠ .IDLE ∨ e.runLength ≠ 0 → exec .rollbackEnd s = .next s)

/-- A restore write that fails, with an ERROR reply or a timeout and nothing else in flight: DOWN_ERROR or DOWN_TIMEOUT,
then the record HELD again and kept, its step gone, the sequencer IDLE, the epoch HALTED, and HALTED posted with the slot
and the cause; a held request for a JOURNAL line is answered FENCED (05 R95, R96; 07 R121, R122). -/
def Obligations.FailedRestoresHaltTheEpoch : Prop :=
  ∀ (e : Epoch) (r : List Epoch) (tag : DownTag) (line : Line) (x : Nat) (c : Record) (slot : Slot) (s : State),
    s.ec.stack = e :: r → e.state = .RESTORING → s.ec.sequencer = .WRITING slot → s.dp.tagWait = [] →
    tableGet s.jr.records slot.toNat = some c → c.line = line → s.lht = [(line.toNat, [.restore slot])] →
    tableGet s.dp.tracker tag.val = some ⟨.RESTORE_WRITE, .sequencer, line, x, none, none⟩ → s.upLink = .UP →
    ∀ (fenced : Option (HostTag × Context)),
    (fenced = none → s.holds = []) →
    (∀ t k, fenced = some (t, k) → s.holds = [⟨t, k.line, .OPERATION, none⟩] ∧ contextOf s t = some k ∧
      isJournalLine s k.line = true) →
    let left : Table Context × List HostReply := match fenced with
      | none => (s.contexts, s.upTx)
      | some (t, k) => (tableErase s.contexts t.val, s.upTx ++ [⟨t, k.request.kind, .FENCED, none⟩])
    let halted : State := { s with
      ec := { s.ec with stack := { e with state := .HALTED } :: r, sequencer := .IDLE }
      jr := { s.jr with records := tableSet s.jr.records slot.toNat { c with state := .HELD } }
      lht := []
      holds := []
      contexts := left.1
      upTx := left.2 }
    (s.held = false → s.dp.link = .UP → exec (.writeReply tag .ERROR) s = .next { halted with
      dp := { s.dp with tracker := tableErase s.dp.tracker tag.val }
      eq := posted { s with eq := posted s .DOWN_ERROR none (some line) (tag.val + 768) }
        .HALTED (some e.sequence) (some line) slot.toNat }) ∧
    (x ≤ s.now → exec (.downstreamTimeout tag) s = .next { halted with
      dp := { s.dp with
        tracker := tableErase s.dp.tracker tag.val
        quarantine := tableSet s.dp.quarantine tag.val line }
      eq := posted { s with eq := posted s .DOWN_TIMEOUT none (some line) (tag.val + 768) }
        .HALTED (some e.sequence) (some line) (slot.toNat + 4096) })

/-- CAPTURE_DECISION, FORWARD_READ_ISSUE and RESTORE_WRITE_ISSUE, which are parts of other events (log 6), as commands
of their own: the one step that waits for a tag, at the front of its chain, takes the lowest free tag and makes its
access (04 R67 to R69, R72; 05 R91; 07 R119). A DRAINING epoch captures like an OPEN one: the record joins its run, and
the drain goes on waiting for the write (02 R20, 04 R69, 05 R80). -/
def Obligations.WaitingStepsAreIssued : Prop :=
  ∀ (tag : DownTag) (line : Line) (rest : List Step) (s : State), s.held = false → s.dp.link = .UP → lowestFree s tag →
    (∀ t, s.dp.tagWait = [.host t] → chainOf s line = .host t :: rest →
      (entersChain s line .READ → innermostState s ≠ some .DRAINING →
        contextOf s t = some ⟨.READ, line, .QUEUED, none, none, none⟩ → exec (.forwardReadIssue t) s = .next { s with
          contexts := tableSet s.contexts t.val ⟨.READ, line, .FORWARDED, none, none, some tag⟩
          dp := { s.dp with
            tracker := tableSet s.dp.tracker tag.val (entryNow s .FORWARD_READ (.context t) line)
            tagWait := [] }
          downTx := s.downTx ++ [.read tag line] }) ∧
      (∀ m d k e r own, contextOf s t = some ⟨.WRITE m d, line, .QUEUED, none, none, none⟩ → m ≠ 0 →
        captureCalled s line k e r own → e.state = .OPEN ∨ e.state = .DRAINING → 1 ≤ freeCount s.jr →
        exec (.captureDecision t) s = .next { s with
          contexts := tableSet s.contexts t.val ⟨.WRITE m d, line, .CAPTURING, some s.jr.head,
            some (stampGet s.stamps (stampIndex s k line)), some tag⟩
          holds := withoutHold s t
          stamps := stampSet s.stamps (stampIndex s k line) own
          ec := { s.ec with stack := { e with runLength := e.runLength + 1 } :: r }
          jr := {
            head := s.jr.head + 1
            tail := s.jr.tail
            full := decide (s.jr.head + 1 = s.jr.tail)
            records := tableSet s.jr.records s.jr.head.toNat ⟨line, k, own, e.sequence, .RESERVED, none⟩
            lowArmed := decide (s.cfg.lowWater ≤ freeCount s.jr - 1) }
          eq := waterTested s (freeCount s.jr - 1) (some line)
          dp := { s.dp with
            tracker := tableSet s.dp.tracker tag.val (entryNow s .CAPTURE_READ (.context t) line)
            tagWait := [] }
          downTx := s.downTx ++ [.read tag line] })) ∧
    (∀ slot c d, s.ec.sequencer = .PLACED slot → s.dp.tagWait = [.restore slot] → innermostState s = some .RESTORING →
      tableGet s.jr.records slot.toNat = some c → c.line = line → c.payload = some d →
      chainOf s line = .restore slot :: rest → exec .restoreWriteIssue s = .next { s with
        ec := { s.ec with sequencer := .WRITING slot }
        jr := { s.jr with records := tableSet s.jr.records slot.toNat { c with state := .RESTORING } }
        dp := { s.dp with
          tracker := tableSet s.dp.tracker tag.val (entryNow s .RESTORE_WRITE .sequencer line)
          tagWait := [] }
        downTx := s.downTx ++ [.write tag line (BitVec.allOnes 64) d] })

/-! ## The link states (07 R125 to R129) -/

/-- The upstream link: in reset, or in the state it has already, only the indication is seen (log 5, 10 R160). DOWN to
UP posts LINK_CHANGE. UP to DOWN, no drain in progress: LINK_CHANGE, every context gone and the hold list empty; each
outstanding access of a context stays in its chain and in the tracker as an orphan, a capture read with the slot and the
kept old stamp; other host steps leave their chains and the tag-wait list, and restore steps stay (07 R126). -/
def Obligations.UpstreamLinkChanges : Prop :=
  ∀ s : State,
    (s.held = true ∨ s.upLink = .UP → exec .upstreamLinkUp s =
      .next { s with pins := { s.pins with upIndication := true } }) ∧
    (s.held = true ∨ s.upLink = .DOWN → exec .upstreamLinkDown s =
      .next { s with pins := { s.pins with upIndication := false } }) ∧
    (s.held = false → s.upLink = .DOWN → exec .upstreamLinkUp s = .next { s with
      pins := { s.pins with upIndication := true }
      upLink := .UP
      eq := posted s .LINK_CHANGE none none 256 }) ∧
    (s.held = false → s.upLink = .UP → innermostState s ≠ some .DRAINING → tablesLawful s →
      ∃ u, exec .upstreamLinkDown s = .next u ∧ u = { s with
        pins := { s.pins with upIndication := false }
        upLink := .DOWN
        contexts := []
        holds := []
        lht := u.lht
        dp := { s.dp with
          tracker := u.dp.tracker
          tagWait := s.dp.tagWait.filter fun st => match st with
            | .restore _ => true
            | _ => false }
        eq := posted s .LINK_CHANGE none none 0 } ∧
      (∀ line, chainOf u line = (chainOf s line).filterMap fun st => match st with
        | .host t => (contextOf s t).bind fun c =>
          if c.state = .CAPTURING ∨ c.state = .FORWARDED then c.downTag.map Step.orphan else none
        | x => some x) ∧
      ∀ tag : DownTag, tableGet u.dp.tracker tag.val = (tableGet s.dp.tracker tag.val).map fun e =>
        match e.owner with
        | .context t =>
          { e with
            owner := .orphaned
            slot := if e.purpose = .CAPTURE_READ ∧ (contextOf s t).isSome = true then (contextOf s t).bind (·.slot)
              else e.slot
            oldStamp := if e.purpose = .CAPTURE_READ ∧ (contextOf s t).isSome = true then
              (contextOf s t).bind (·.oldStamp) else e.oldStamp }
        | _ => e)

/-- The downstream link: in reset, or in the state it has already, only the indication is seen (log 5, 10 R160). DOWN to
UP posts LINK_CHANGE and issues nothing (07 R129). UP to DOWN: LINK_CHANGE, every tag free and every quarantine over, no
DOWN_ERROR, and what was in flight fails (07 R127, R128). One clause each, nothing else being in flight: a forwarded
request is answered ERROR, and a drain that waited for it completes in the event (05 R83); a capture read makes its
record VOID, reverts the stamp and posts CAPTURE_FAILED; an orphan ends, a capture read's in the same way; a request
that waits for a tag and a write in SPACE_WAIT are answered ERROR; a restore write, or a placed step that waits for a
tag, leaves its record HELD and the epoch HALTED with cause LINK_DOWN (05 R91, R95). A host request that waits for a tag
behind that step is answered ERROR, on a JOURNAL line too (07 R128, step 5). -/
def Obligations.DownstreamLinkChanges : Prop :=
  ∀ s : State,
    (s.held = true ∨ s.dp.link = .UP → exec .downstreamLinkUp s =
      .next { s with pins := { s.pins with downIndication := true } }) ∧
    (s.held = true ∨ s.dp.link = .DOWN → exec .downstreamLinkDown s =
      .next { s with pins := { s.pins with downIndication := false } }) ∧
    (s.held = false → s.dp.link = .DOWN → exec .downstreamLinkUp s = .next { s with
      pins := { s.pins with downIndication := true }
      dp := { s.dp with link := .UP }
      eq := posted s .LINK_CHANGE none none 257 }) ∧
    (s.held = false → s.dp.link = .UP → s.upLink = .UP → tablesLawful s →
      let lost : State := { s with
        pins := { s.pins with downIndication := false }
        dp := ⟨.DOWN, [], [], []⟩
        eq := posted s .LINK_CHANGE none none 1 }
      let answered (t : HostTag) (line : Line) (k : Kind) : State := { lost with
        contexts := tableErase s.contexts t.val
        lht := tableErase s.lht line.toNat
        holds := withoutHold s t
        upTx := s.upTx ++ [⟨t, k, .ERROR, none⟩] }
      let voided (k : Fin 8) (line : Line) (slot : Slot) (old : Ident) (r : Record) (u : State) : State := { u with
        stamps := stampSet s.stamps (k.val * 32768 + (line.toNat - s.regions[k].base.toNat))
          (if s.ec.stack.any fun e => e.ids.contains old then old else 0)
        jr := { s.jr with records := tableSet s.jr.records slot.toNat { r with state := .VOID, payload := none } }
        eq := posted lost .CAPTURE_FAILED (some r.epochSequence) (some line) slot.toNat }
      let halted (e : Epoch) (below : List Epoch) (c : Record) (slot : Slot) : State := { lost with
        ec := { s.ec with stack := { e with state := .HALTED } :: below, sequencer := .IDLE }
        jr := { s.jr with records := tableSet s.jr.records slot.toNat { c with state := .HELD } }
        lht := []
        eq := posted lost .HALTED (some e.sequence) (some c.line) (slot.toNat + 8192) }
      ((∀ h ∈ s.holds, h.reason = .OPERATION) → s.dp.tagWait = [] →
        (s.dp.tracker = [] → innermostState s ≠ some .DRAINING → exec .downstreamLinkDown s = .next lost) ∧
        (∀ (tag : DownTag) (t : HostTag) (c : Context) (e : TrackerEntry), s.dp.tracker = [(tag.val, e)] →
          e.owner = .context t → contextOf s t = some c → c.line = e.line → chainOf s e.line = [.host t] →
          (e.purpose = .FORWARD_READ ∨ e.purpose = .FORWARD_WRITE →
            (innermostState s ≠ some .DRAINING →
              exec .downstreamLinkDown s = .next (answered t e.line c.request.kind)) ∧
            endsIn (exec .downstreamLinkDown s) (answered t e.line c.request.kind)) ∧
          (∀ k slot old r, e.purpose = .CAPTURE_READ → c.slot = some slot → c.oldStamp = some old →
            tableGet s.jr.records slot.toNat = some r → lookup s e.line = some k → innermostState s ≠ some .DRAINING →
            exec .downstreamLinkDown s = .next (voided k e.line slot old r (answered t e.line c.request.kind)))) ∧
        (∀ (tag : DownTag) (e : TrackerEntry), s.dp.tracker = [(tag.val, e)] → e.owner = .orphaned →
          chainOf s e.line = [.orphan tag] → innermostState s ≠ some .DRAINING →
          (e.purpose = .FORWARD_READ ∨ e.purpose = .FORWARD_WRITE →
            exec .downstreamLinkDown s = .next { lost with lht := tableErase s.lht e.line.toNat }) ∧
          (∀ k slot old r, e.purpose = .CAPTURE_READ → e.slot = some slot → e.oldStamp = some old →
            tableGet s.jr.records slot.toNat = some r → lookup s e.line = some k →
            exec .downstreamLinkDown s =
              .next (voided k e.line slot old r { lost with lht := tableErase s.lht e.line.toNat })))) ∧
      (∀ t c, s.dp.tracker = [] → contextOf s t = some c → chainOf s c.line = [.host t] →
        innermostState s ≠ some .DRAINING →
        (s.dp.tagWait = [.host t] ∧ (∀ h ∈ s.holds, h.reason = .OPERATION)) ∨
          (s.dp.tagWait = [] ∧ c.state = .SPACE_WAIT ∧ ∃ x, s.holds = [⟨t, c.line, .SPACE, x⟩]) →
        exec .downstreamLinkDown s = .next (answered t c.line c.request.kind)) ∧
      (∀ e below c slot, s.ec.stack = e :: below → e.state = .RESTORING → s.holds = [] →
        tableGet s.jr.records slot.toNat = some c → s.lht = [(c.line.toNat, [.restore slot])] →
        (∃ (tag : DownTag) (x : Nat), s.ec.sequencer = .WRITING slot ∧ s.dp.tagWait = [] ∧
            s.dp.tracker = [(tag.val, ⟨.RESTORE_WRITE, .sequencer, c.line, x, none, none⟩)]) ∨
          (s.ec.sequencer = .PLACED slot ∧ s.dp.tagWait = [.restore slot] ∧ s.dp.tracker = []) →
        exec .downstreamLinkDown s = .next (halted e below c slot)) ∧
      (∀ e below c slot t k, s.ec.stack = e :: below → e.state = .RESTORING → s.holds = [] → s.dp.tracker = [] →
        s.ec.sequencer = .PLACED slot → s.dp.tagWait = [.restore slot, .host t] →
        tableGet s.jr.records slot.toNat = some c → contextOf s t = some k → chainOf s k.line = [.host t] →
        tableErase s.lht k.line.toNat = [(c.line.toNat, [.restore slot])] →
        exec .downstreamLinkDown s = .next { halted e below c slot with
          contexts := tableErase s.contexts t.val
          upTx := s.upTx ++ [⟨t, k.request.kind, .ERROR, none⟩] }))

/-! ## Action rules (08 R136) -/

/-- A forwarded write that completes one rule, the other not firing: the marks are set, the rule's marks become absent
and it is disabled if its once flag is set, RULE_FIRED is posted with the innermost sequence, the write's line, rule and
action, and the rule asks for its epoch operation. It is refused with a REFUSED event; or an MRK opens an epoch with the
rule's origin, on an empty stack or above an OPEN epoch; or a CMT, RBK or ABN begins its drain, here with a write to a
JOURNAL line in flight, such as the write itself (02 R24, R27 to R31; 05 R80; 08 R135 to R137; the write's order is 08
R132). The model's own `removedSome` is left free. Where both rules fire at one write, here with both requests refused
on an empty stack, rule 0's RULE_FIRED and REFUSED come before rule 1's (08 R136). -/
def Obligations.RulesFire : Prop :=
  ∀ (t : HostTag) (line : Line) (tag : DownTag) (m : Mask) (d : Data) (s : State), accepts s t → chainOf s line = [] →
    tagReady s tag → entersChain s line (.WRITE m d) → needsNoCapture s line → m ≠ 0 →
    let sent : State := { s with
      contexts := tableSet s.contexts t.val ⟨.WRITE m d, line, .FORWARDED, none, none, some tag⟩
      lht := tableSet s.lht line.toNat [.host t]
      holds := withoutHold s t
      dp := { s.dp with tracker := tableSet s.dp.tracker tag.val (entryNow s .FORWARD_WRITE (.context t) line) }
      downTx := s.downTx ++ [.write tag line m d] }
    let fired (k : Fin 2) : Rule := { s.wu.rules[k] with
      enabled := !s.wu.rules[k].once
      members := s.wu.rules[k].members.map fun x => ⟨x.watch, none⟩ }
    (∀ k j : Fin 2, j ≠ k → ruleFires s line m d s.wu.rules[k] → ¬ ruleFires s line m d s.wu.rules[j] →
      let action := s.wu.rules[k].action
      let told : State := { sent with
        wu := { s.wu with rules := (s.wu.rules.map (ruleShown s line m d)).set k (fired k) }
        eq := posted s .RULE_FIRED (innermostSequence s) (some line) (k.val + 256 * action.code) }
      (∀ r, refusalOf s action = some r → exec (.writeRequest t line m d) s = .next { told with
        eq := posted told .REFUSED (innermostSequence s) none (action.code + 16 * (3 + k.val) + 256 * r.code) }) ∧
      (∀ own rest, action = .MRK → openOrEmpty s → s.ec.stack.length < 4 → s.ip.free = own :: rest →
        s.ec.counter.toNat ≠ 4294967295 → exec (.writeRequest t line m d) s = .next { told with
          ec := { s.ec with
            stack := ⟨s.ec.counter + 1, s.ec.stack.length + 1, [own], s.jr.head, 0, .OPEN, none, false,
              if k = 0 then .RULE0 else .RULE1, 0⟩ :: s.ec.stack
            counter := s.ec.counter + 1 }
          ip := { s.ip with free := rest }
          eq := posted told .OPENED (some (s.ec.counter + 1)) none
            (s.ec.stack.length + 1 + 16 * own.toNat + 256 * (3 + k.val)) }) ∧
      (∀ e r p, (action, p) ∈ [(EpochOp.CMT, Pending.COMMIT), (.RBK, .ROLLBACK), (.ABN, .ABANDON)] →
        s.ec.stack = e :: r → e.state = .OPEN → drainSet told ≠ [] →
        ∃ u, exec (.writeRequest t line m d) s = .next u ∧ u = { told with
          ec := { s.ec with
            stack := { e with
              state := .DRAINING
              pending := some p
              restored := if action = .RBK then 0 else e.restored } :: r
            closingOrigin := some (if k = 0 then .RULE0 else .RULE1)
            removedSome := u.ec.removedSome } })) ∧
    (s.ec.stack = [] → (∀ k : Fin 2, ruleFires s line m d s.wu.rules[k] ∧ s.wu.rules[k].action ≠ .MRK) →
      let told (k : Fin 2) (q : EventQueue) : EventQueue :=
        let q' := posted { s with eq := q } .RULE_FIRED none (some line) (k.val + 256 * s.wu.rules[k].action.code)
        posted { s with eq := q' } .REFUSED none none (s.wu.rules[k].action.code + 16 * (3 + k.val) + 768)
      exec (.writeRequest t line m d) s = .next { sent with
        wu := { s.wu with rules := (s.wu.rules.set 0 (fired 0)).set 1 (fired 1) }
        eq := told 1 (told 0 s.eq) })

/-! ## Laws that every step keeps -/

/-- The event queue keeps its bounds, its numbering and ALERT_N's condition (09 R146, R147, R150). -/
def Obligations.EventQueueStaysLawful : Prop :=
  ∀ s t : State, queueBounded s → eventsNumbered s → alertRight s → step s = .next t →
    queueBounded t ∧ eventsNumbered t ∧ alertRight t

/-- The free list, the retiring list and the id sets go on holding every identifier 1 to 15 exactly once (06 R102). -/
def Obligations.IdentifiersStayPlaced : Prop :=
  ∀ s t : State, identifiersPlaced s → step s = .next t → identifiersPlaced t

/-- No stamp comes to hold an identifier that is neither retiring nor in an id set: an identifier returns to the free
list only once every stamp that held it has been cleared (06 R104 to R107). -/
def Obligations.StampsStayAccounted : Prop :=
  ∀ s t : State, identifiersPlaced s → tablesLawful s → stampsAccounted s → step s = .next t → stampsAccounted t

/-- The stack keeps its depth, levels, states and sequences, pending goes with DRAINING, and the sequencer works only
under a RESTORING epoch with a run (02 R17, R18, R33; 05 R82, R90). -/
def Obligations.StackStaysLawful : Prop :=
  ∀ s t : State, stackLawful s → pendingLawful s → sequencerLawful s → step s = .next t →
    stackLawful t ∧ pendingLawful t ∧ sequencerLawful t

/-- The runs go on following one another from the tail to the head, the used count is their sum, the low-armed flag is
what the last watermark comparison left, and a record stands in exactly the slots of the used stretch (03 R36, R37, R39,
R47). -/
def Obligations.RingStaysLawful : Prop :=
  ∀ s t : State, stackLawful s → pendingLawful s → sequencerLawful s → tablesLawful s → ringLawful s → waterLawful s →
    recordsPlaced s → step s = .next t → ringLawful t ∧ waterLawful t ∧ recordsPlaced t

/-- The stores keep their canonical forms and index ranges, the regions their lengths and places, no two of them share a
line, and the configuration items their ranges (01 R1, R3, R4, R13; 03 R36; 04 R63; 10 R157). -/
def Obligations.TablesStayLawful : Prop :=
  ∀ s t : State, tablesLawful s → regionsLawful s → regionsApart s → configLawful s → step s = .next t →
    tablesLawful t ∧ regionsLawful t ∧ regionsApart t ∧ configLawful t

/-- No tag is both in use and quarantined, a DOWN downstream link has nothing outstanding, quarantined or waiting, and a
DOWN upstream link has no context and nothing held (07 R117, R126, R128, R129). -/
def Obligations.TagsAndLinksStayLawful : Prop :=
  ∀ s t : State, tablesLawful s → regionsLawful s → tagsApart s → downLinkLawful s → upLinkLawful s → step s = .next t →
    tagsApart t ∧ downLinkLawful t ∧ upLinkLawful t

/-- Every host step of a chain, held request and waiting host step goes on having its live context (04 R54, R56, R58,
R63; 07 R119). -/
def Obligations.WorkStaysTiedToContexts : Prop :=
  ∀ s t : State, tablesLawful s → regionsLawful s → workLawful s → step s = .next t → workLawful t

/-- Every law holds after reset. -/
def Obligations.LawsHoldAtReset : Prop :=
  queueBounded State.reset ∧ eventsNumbered State.reset ∧ alertRight State.reset ∧ identifiersPlaced State.reset ∧
    stampsAccounted State.reset ∧ stackLawful State.reset ∧ pendingLawful State.reset ∧ sequencerLawful State.reset ∧
    ringLawful State.reset ∧ waterLawful State.reset ∧ recordsPlaced State.reset ∧ tablesLawful State.reset ∧
    regionsLawful State.reset ∧ regionsApart State.reset ∧ configLawful State.reset ∧ tagsApart State.reset ∧ downLinkLawful State.reset ∧
    upLinkLawful State.reset ∧ workLawful State.reset
end

