-- ==== Sys2Proof/Laws/State.lean ====
section
/-! SUPPORT. What each operation of Machine/Ops.lean leaves alone and what it writes: one lemma per operation and field,
so that no later proof unfolds a record update. -/

namespace Sys2Proof.Machine

/-! ### postEvent -/

@[simp] theorem postEvent_pending (k : EventKind) (q : Option (BitVec 32)) (l : Option Line) (d : BitVec 16) (s : State) :
    (postEvent k q l d s).pending = s.pending := rfl
@[simp] theorem postEvent_now (k : EventKind) (q : Option (BitVec 32)) (l : Option Line) (d : BitVec 16) (s : State) :
    (postEvent k q l d s).now = s.now := rfl
@[simp] theorem postEvent_held (k : EventKind) (q : Option (BitVec 32)) (l : Option Line) (d : BitVec 16) (s : State) :
    (postEvent k q l d s).held = s.held := rfl
@[simp] theorem postEvent_pins (k : EventKind) (q : Option (BitVec 32)) (l : Option Line) (d : BitVec 16) (s : State) :
    (postEvent k q l d s).pins = s.pins := rfl
@[simp] theorem postEvent_upLink (k : EventKind) (q : Option (BitVec 32)) (l : Option Line) (d : BitVec 16) (s : State) :
    (postEvent k q l d s).upLink = s.upLink := rfl
@[simp] theorem postEvent_regions (k : EventKind) (q : Option (BitVec 32)) (l : Option Line) (d : BitVec 16) (s : State) :
    (postEvent k q l d s).regions = s.regions := rfl
@[simp] theorem postEvent_stamps (k : EventKind) (q : Option (BitVec 32)) (l : Option Line) (d : BitVec 16) (s : State) :
    (postEvent k q l d s).stamps = s.stamps := rfl
@[simp] theorem postEvent_ec (k : EventKind) (q : Option (BitVec 32)) (l : Option Line) (d : BitVec 16) (s : State) :
    (postEvent k q l d s).ec = s.ec := rfl
@[simp] theorem postEvent_jr (k : EventKind) (q : Option (BitVec 32)) (l : Option Line) (d : BitVec 16) (s : State) :
    (postEvent k q l d s).jr = s.jr := rfl
@[simp] theorem postEvent_ip (k : EventKind) (q : Option (BitVec 32)) (l : Option Line) (d : BitVec 16) (s : State) :
    (postEvent k q l d s).ip = s.ip := rfl
@[simp] theorem postEvent_ss (k : EventKind) (q : Option (BitVec 32)) (l : Option Line) (d : BitVec 16) (s : State) :
    (postEvent k q l d s).ss = s.ss := rfl
@[simp] theorem postEvent_contexts (k : EventKind) (q : Option (BitVec 32)) (l : Option Line) (d : BitVec 16) (s : State) :
    (postEvent k q l d s).contexts = s.contexts := rfl
@[simp] theorem postEvent_lht (k : EventKind) (q : Option (BitVec 32)) (l : Option Line) (d : BitVec 16) (s : State) :
    (postEvent k q l d s).lht = s.lht := rfl
@[simp] theorem postEvent_holds (k : EventKind) (q : Option (BitVec 32)) (l : Option Line) (d : BitVec 16) (s : State) :
    (postEvent k q l d s).holds = s.holds := rfl
@[simp] theorem postEvent_dp (k : EventKind) (q : Option (BitVec 32)) (l : Option Line) (d : BitVec 16) (s : State) :
    (postEvent k q l d s).dp = s.dp := rfl
@[simp] theorem postEvent_wu (k : EventKind) (q : Option (BitVec 32)) (l : Option Line) (d : BitVec 16) (s : State) :
    (postEvent k q l d s).wu = s.wu := rfl
@[simp] theorem postEvent_cfg (k : EventKind) (q : Option (BitVec 32)) (l : Option Line) (d : BitVec 16) (s : State) :
    (postEvent k q l d s).cfg = s.cfg := rfl
@[simp] theorem postEvent_mp (k : EventKind) (q : Option (BitVec 32)) (l : Option Line) (d : BitVec 16) (s : State) :
    (postEvent k q l d s).mp = s.mp := rfl
@[simp] theorem postEvent_upTx (k : EventKind) (q : Option (BitVec 32)) (l : Option Line) (d : BitVec 16) (s : State) :
    (postEvent k q l d s).upTx = s.upTx := rfl
@[simp] theorem postEvent_downTx (k : EventKind) (q : Option (BitVec 32)) (l : Option Line) (d : BitVec 16) (s : State) :
    (postEvent k q l d s).downTx = s.downTx := rfl

/-! ### sendReply -/

@[simp] theorem sendReply_pending (t : HostTag) (k : Kind) (st : HostStatus) (d : Option Data) (s : State) :
    (sendReply t k st d s).pending = s.pending := rfl
@[simp] theorem sendReply_now (t : HostTag) (k : Kind) (st : HostStatus) (d : Option Data) (s : State) :
    (sendReply t k st d s).now = s.now := rfl
@[simp] theorem sendReply_held (t : HostTag) (k : Kind) (st : HostStatus) (d : Option Data) (s : State) :
    (sendReply t k st d s).held = s.held := rfl
@[simp] theorem sendReply_pins (t : HostTag) (k : Kind) (st : HostStatus) (d : Option Data) (s : State) :
    (sendReply t k st d s).pins = s.pins := rfl
@[simp] theorem sendReply_upLink (t : HostTag) (k : Kind) (st : HostStatus) (d : Option Data) (s : State) :
    (sendReply t k st d s).upLink = s.upLink := rfl
@[simp] theorem sendReply_regions (t : HostTag) (k : Kind) (st : HostStatus) (d : Option Data) (s : State) :
    (sendReply t k st d s).regions = s.regions := rfl
@[simp] theorem sendReply_stamps (t : HostTag) (k : Kind) (st : HostStatus) (d : Option Data) (s : State) :
    (sendReply t k st d s).stamps = s.stamps := rfl
@[simp] theorem sendReply_ec (t : HostTag) (k : Kind) (st : HostStatus) (d : Option Data) (s : State) :
    (sendReply t k st d s).ec = s.ec := rfl
@[simp] theorem sendReply_jr (t : HostTag) (k : Kind) (st : HostStatus) (d : Option Data) (s : State) :
    (sendReply t k st d s).jr = s.jr := rfl
@[simp] theorem sendReply_ip (t : HostTag) (k : Kind) (st : HostStatus) (d : Option Data) (s : State) :
    (sendReply t k st d s).ip = s.ip := rfl
@[simp] theorem sendReply_ss (t : HostTag) (k : Kind) (st : HostStatus) (d : Option Data) (s : State) :
    (sendReply t k st d s).ss = s.ss := rfl
@[simp] theorem sendReply_contexts (t : HostTag) (k : Kind) (st : HostStatus) (d : Option Data) (s : State) :
    (sendReply t k st d s).contexts = s.contexts := rfl
@[simp] theorem sendReply_lht (t : HostTag) (k : Kind) (st : HostStatus) (d : Option Data) (s : State) :
    (sendReply t k st d s).lht = s.lht := rfl
@[simp] theorem sendReply_holds (t : HostTag) (k : Kind) (st : HostStatus) (d : Option Data) (s : State) :
    (sendReply t k st d s).holds = s.holds := rfl
@[simp] theorem sendReply_dp (t : HostTag) (k : Kind) (st : HostStatus) (d : Option Data) (s : State) :
    (sendReply t k st d s).dp = s.dp := rfl
@[simp] theorem sendReply_wu (t : HostTag) (k : Kind) (st : HostStatus) (d : Option Data) (s : State) :
    (sendReply t k st d s).wu = s.wu := rfl
@[simp] theorem sendReply_eq (t : HostTag) (k : Kind) (st : HostStatus) (d : Option Data) (s : State) :
    (sendReply t k st d s).eq = s.eq := rfl
@[simp] theorem sendReply_cfg (t : HostTag) (k : Kind) (st : HostStatus) (d : Option Data) (s : State) :
    (sendReply t k st d s).cfg = s.cfg := rfl
@[simp] theorem sendReply_mp (t : HostTag) (k : Kind) (st : HostStatus) (d : Option Data) (s : State) :
    (sendReply t k st d s).mp = s.mp := rfl
@[simp] theorem sendReply_downTx (t : HostTag) (k : Kind) (st : HostStatus) (d : Option Data) (s : State) :
    (sendReply t k st d s).downTx = s.downTx := rfl

/-! ### issue -/

@[simp] theorem issue_pending (g : DownTag) (p : Purpose) (o : Owner) (l : Line) (m : MemRequest) (s : State) :
    (issue g p o l m s).pending = s.pending := rfl
@[simp] theorem issue_now (g : DownTag) (p : Purpose) (o : Owner) (l : Line) (m : MemRequest) (s : State) :
    (issue g p o l m s).now = s.now := rfl
@[simp] theorem issue_held (g : DownTag) (p : Purpose) (o : Owner) (l : Line) (m : MemRequest) (s : State) :
    (issue g p o l m s).held = s.held := rfl
@[simp] theorem issue_pins (g : DownTag) (p : Purpose) (o : Owner) (l : Line) (m : MemRequest) (s : State) :
    (issue g p o l m s).pins = s.pins := rfl
@[simp] theorem issue_upLink (g : DownTag) (p : Purpose) (o : Owner) (l : Line) (m : MemRequest) (s : State) :
    (issue g p o l m s).upLink = s.upLink := rfl
@[simp] theorem issue_regions (g : DownTag) (p : Purpose) (o : Owner) (l : Line) (m : MemRequest) (s : State) :
    (issue g p o l m s).regions = s.regions := rfl
@[simp] theorem issue_stamps (g : DownTag) (p : Purpose) (o : Owner) (l : Line) (m : MemRequest) (s : State) :
    (issue g p o l m s).stamps = s.stamps := rfl
@[simp] theorem issue_ec (g : DownTag) (p : Purpose) (o : Owner) (l : Line) (m : MemRequest) (s : State) :
    (issue g p o l m s).ec = s.ec := rfl
@[simp] theorem issue_jr (g : DownTag) (p : Purpose) (o : Owner) (l : Line) (m : MemRequest) (s : State) :
    (issue g p o l m s).jr = s.jr := rfl
@[simp] theorem issue_ip (g : DownTag) (p : Purpose) (o : Owner) (l : Line) (m : MemRequest) (s : State) :
    (issue g p o l m s).ip = s.ip := rfl
@[simp] theorem issue_ss (g : DownTag) (p : Purpose) (o : Owner) (l : Line) (m : MemRequest) (s : State) :
    (issue g p o l m s).ss = s.ss := rfl
@[simp] theorem issue_contexts (g : DownTag) (p : Purpose) (o : Owner) (l : Line) (m : MemRequest) (s : State) :
    (issue g p o l m s).contexts = s.contexts := rfl
@[simp] theorem issue_lht (g : DownTag) (p : Purpose) (o : Owner) (l : Line) (m : MemRequest) (s : State) :
    (issue g p o l m s).lht = s.lht := rfl
@[simp] theorem issue_holds (g : DownTag) (p : Purpose) (o : Owner) (l : Line) (m : MemRequest) (s : State) :
    (issue g p o l m s).holds = s.holds := rfl
@[simp] theorem issue_dp_link (g : DownTag) (p : Purpose) (o : Owner) (l : Line) (m : MemRequest) (s : State) :
    (issue g p o l m s).dp.link = s.dp.link := rfl
@[simp] theorem issue_dp_quarantine (g : DownTag) (p : Purpose) (o : Owner) (l : Line) (m : MemRequest) (s : State) :
    (issue g p o l m s).dp.quarantine = s.dp.quarantine := rfl
@[simp] theorem issue_dp_tagWait (g : DownTag) (p : Purpose) (o : Owner) (l : Line) (m : MemRequest) (s : State) :
    (issue g p o l m s).dp.tagWait = s.dp.tagWait := rfl
@[simp] theorem issue_wu (g : DownTag) (p : Purpose) (o : Owner) (l : Line) (m : MemRequest) (s : State) :
    (issue g p o l m s).wu = s.wu := rfl
@[simp] theorem issue_eq (g : DownTag) (p : Purpose) (o : Owner) (l : Line) (m : MemRequest) (s : State) :
    (issue g p o l m s).eq = s.eq := rfl
@[simp] theorem issue_cfg (g : DownTag) (p : Purpose) (o : Owner) (l : Line) (m : MemRequest) (s : State) :
    (issue g p o l m s).cfg = s.cfg := rfl
@[simp] theorem issue_mp (g : DownTag) (p : Purpose) (o : Owner) (l : Line) (m : MemRequest) (s : State) :
    (issue g p o l m s).mp = s.mp := rfl
@[simp] theorem issue_upTx (g : DownTag) (p : Purpose) (o : Owner) (l : Line) (m : MemRequest) (s : State) :
    (issue g p o l m s).upTx = s.upTx := rfl

/-! ### removeEntry -/

@[simp] theorem removeEntry_pending (g : DownTag) (s : State) :
    (removeEntry g s).pending = s.pending := rfl
@[simp] theorem removeEntry_now (g : DownTag) (s : State) :
    (removeEntry g s).now = s.now := rfl
@[simp] theorem removeEntry_held (g : DownTag) (s : State) :
    (removeEntry g s).held = s.held := rfl
@[simp] theorem removeEntry_pins (g : DownTag) (s : State) :
    (removeEntry g s).pins = s.pins := rfl
@[simp] theorem removeEntry_upLink (g : DownTag) (s : State) :
    (removeEntry g s).upLink = s.upLink := rfl
@[simp] theorem removeEntry_regions (g : DownTag) (s : State) :
    (removeEntry g s).regions = s.regions := rfl
@[simp] theorem removeEntry_stamps (g : DownTag) (s : State) :
    (removeEntry g s).stamps = s.stamps := rfl
@[simp] theorem removeEntry_ec (g : DownTag) (s : State) :
    (removeEntry g s).ec = s.ec := rfl
@[simp] theorem removeEntry_jr (g : DownTag) (s : State) :
    (removeEntry g s).jr = s.jr := rfl
@[simp] theorem removeEntry_ip (g : DownTag) (s : State) :
    (removeEntry g s).ip = s.ip := rfl
@[simp] theorem removeEntry_ss (g : DownTag) (s : State) :
    (removeEntry g s).ss = s.ss := rfl
@[simp] theorem removeEntry_contexts (g : DownTag) (s : State) :
    (removeEntry g s).contexts = s.contexts := rfl
@[simp] theorem removeEntry_lht (g : DownTag) (s : State) :
    (removeEntry g s).lht = s.lht := rfl
@[simp] theorem removeEntry_holds (g : DownTag) (s : State) :
    (removeEntry g s).holds = s.holds := rfl
@[simp] theorem removeEntry_dp_link (g : DownTag) (s : State) :
    (removeEntry g s).dp.link = s.dp.link := rfl
@[simp] theorem removeEntry_dp_quarantine (g : DownTag) (s : State) :
    (removeEntry g s).dp.quarantine = s.dp.quarantine := rfl
@[simp] theorem removeEntry_dp_tagWait (g : DownTag) (s : State) :
    (removeEntry g s).dp.tagWait = s.dp.tagWait := rfl
@[simp] theorem removeEntry_wu (g : DownTag) (s : State) :
    (removeEntry g s).wu = s.wu := rfl
@[simp] theorem removeEntry_eq (g : DownTag) (s : State) :
    (removeEntry g s).eq = s.eq := rfl
@[simp] theorem removeEntry_cfg (g : DownTag) (s : State) :
    (removeEntry g s).cfg = s.cfg := rfl
@[simp] theorem removeEntry_mp (g : DownTag) (s : State) :
    (removeEntry g s).mp = s.mp := rfl
@[simp] theorem removeEntry_upTx (g : DownTag) (s : State) :
    (removeEntry g s).upTx = s.upTx := rfl
@[simp] theorem removeEntry_downTx (g : DownTag) (s : State) :
    (removeEntry g s).downTx = s.downTx := rfl

/-! ### quarantineTag -/

@[simp] theorem quarantineTag_pending (g : DownTag) (l : Line) (s : State) :
    (quarantineTag g l s).pending = s.pending := rfl
@[simp] theorem quarantineTag_now (g : DownTag) (l : Line) (s : State) :
    (quarantineTag g l s).now = s.now := rfl
@[simp] theorem quarantineTag_held (g : DownTag) (l : Line) (s : State) :
    (quarantineTag g l s).held = s.held := rfl
@[simp] theorem quarantineTag_pins (g : DownTag) (l : Line) (s : State) :
    (quarantineTag g l s).pins = s.pins := rfl
@[simp] theorem quarantineTag_upLink (g : DownTag) (l : Line) (s : State) :
    (quarantineTag g l s).upLink = s.upLink := rfl
@[simp] theorem quarantineTag_regions (g : DownTag) (l : Line) (s : State) :
    (quarantineTag g l s).regions = s.regions := rfl
@[simp] theorem quarantineTag_stamps (g : DownTag) (l : Line) (s : State) :
    (quarantineTag g l s).stamps = s.stamps := rfl
@[simp] theorem quarantineTag_ec (g : DownTag) (l : Line) (s : State) :
    (quarantineTag g l s).ec = s.ec := rfl
@[simp] theorem quarantineTag_jr (g : DownTag) (l : Line) (s : State) :
    (quarantineTag g l s).jr = s.jr := rfl
@[simp] theorem quarantineTag_ip (g : DownTag) (l : Line) (s : State) :
    (quarantineTag g l s).ip = s.ip := rfl
@[simp] theorem quarantineTag_ss (g : DownTag) (l : Line) (s : State) :
    (quarantineTag g l s).ss = s.ss := rfl
@[simp] theorem quarantineTag_contexts (g : DownTag) (l : Line) (s : State) :
    (quarantineTag g l s).contexts = s.contexts := rfl
@[simp] theorem quarantineTag_lht (g : DownTag) (l : Line) (s : State) :
    (quarantineTag g l s).lht = s.lht := rfl
@[simp] theorem quarantineTag_holds (g : DownTag) (l : Line) (s : State) :
    (quarantineTag g l s).holds = s.holds := rfl
@[simp] theorem quarantineTag_dp_link (g : DownTag) (l : Line) (s : State) :
    (quarantineTag g l s).dp.link = s.dp.link := rfl
@[simp] theorem quarantineTag_dp_tracker (g : DownTag) (l : Line) (s : State) :
    (quarantineTag g l s).dp.tracker = s.dp.tracker := rfl
@[simp] theorem quarantineTag_dp_tagWait (g : DownTag) (l : Line) (s : State) :
    (quarantineTag g l s).dp.tagWait = s.dp.tagWait := rfl
@[simp] theorem quarantineTag_wu (g : DownTag) (l : Line) (s : State) :
    (quarantineTag g l s).wu = s.wu := rfl
@[simp] theorem quarantineTag_eq (g : DownTag) (l : Line) (s : State) :
    (quarantineTag g l s).eq = s.eq := rfl
@[simp] theorem quarantineTag_cfg (g : DownTag) (l : Line) (s : State) :
    (quarantineTag g l s).cfg = s.cfg := rfl
@[simp] theorem quarantineTag_mp (g : DownTag) (l : Line) (s : State) :
    (quarantineTag g l s).mp = s.mp := rfl
@[simp] theorem quarantineTag_upTx (g : DownTag) (l : Line) (s : State) :
    (quarantineTag g l s).upTx = s.upTx := rfl
@[simp] theorem quarantineTag_downTx (g : DownTag) (l : Line) (s : State) :
    (quarantineTag g l s).downTx = s.downTx := rfl

/-! ### endQuarantine -/

@[simp] theorem endQuarantine_pending (g : DownTag) (s : State) :
    (endQuarantine g s).pending = s.pending := rfl
@[simp] theorem endQuarantine_now (g : DownTag) (s : State) :
    (endQuarantine g s).now = s.now := rfl
@[simp] theorem endQuarantine_held (g : DownTag) (s : State) :
    (endQuarantine g s).held = s.held := rfl
@[simp] theorem endQuarantine_pins (g : DownTag) (s : State) :
    (endQuarantine g s).pins = s.pins := rfl
@[simp] theorem endQuarantine_upLink (g : DownTag) (s : State) :
    (endQuarantine g s).upLink = s.upLink := rfl
@[simp] theorem endQuarantine_regions (g : DownTag) (s : State) :
    (endQuarantine g s).regions = s.regions := rfl
@[simp] theorem endQuarantine_stamps (g : DownTag) (s : State) :
    (endQuarantine g s).stamps = s.stamps := rfl
@[simp] theorem endQuarantine_ec (g : DownTag) (s : State) :
    (endQuarantine g s).ec = s.ec := rfl
@[simp] theorem endQuarantine_jr (g : DownTag) (s : State) :
    (endQuarantine g s).jr = s.jr := rfl
@[simp] theorem endQuarantine_ip (g : DownTag) (s : State) :
    (endQuarantine g s).ip = s.ip := rfl
@[simp] theorem endQuarantine_ss (g : DownTag) (s : State) :
    (endQuarantine g s).ss = s.ss := rfl
@[simp] theorem endQuarantine_contexts (g : DownTag) (s : State) :
    (endQuarantine g s).contexts = s.contexts := rfl
@[simp] theorem endQuarantine_lht (g : DownTag) (s : State) :
    (endQuarantine g s).lht = s.lht := rfl
@[simp] theorem endQuarantine_holds (g : DownTag) (s : State) :
    (endQuarantine g s).holds = s.holds := rfl
@[simp] theorem endQuarantine_dp_link (g : DownTag) (s : State) :
    (endQuarantine g s).dp.link = s.dp.link := rfl
@[simp] theorem endQuarantine_dp_tracker (g : DownTag) (s : State) :
    (endQuarantine g s).dp.tracker = s.dp.tracker := rfl
@[simp] theorem endQuarantine_dp_tagWait (g : DownTag) (s : State) :
    (endQuarantine g s).dp.tagWait = s.dp.tagWait := rfl
@[simp] theorem endQuarantine_wu (g : DownTag) (s : State) :
    (endQuarantine g s).wu = s.wu := rfl
@[simp] theorem endQuarantine_eq (g : DownTag) (s : State) :
    (endQuarantine g s).eq = s.eq := rfl
@[simp] theorem endQuarantine_cfg (g : DownTag) (s : State) :
    (endQuarantine g s).cfg = s.cfg := rfl
@[simp] theorem endQuarantine_mp (g : DownTag) (s : State) :
    (endQuarantine g s).mp = s.mp := rfl
@[simp] theorem endQuarantine_upTx (g : DownTag) (s : State) :
    (endQuarantine g s).upTx = s.upTx := rfl
@[simp] theorem endQuarantine_downTx (g : DownTag) (s : State) :
    (endQuarantine g s).downTx = s.downTx := rfl

/-! ### createContext -/

@[simp] theorem createContext_pending (t : HostTag) (r : Request) (l : Line) (s : State) :
    (createContext t r l s).pending = s.pending := rfl
@[simp] theorem createContext_now (t : HostTag) (r : Request) (l : Line) (s : State) :
    (createContext t r l s).now = s.now := rfl
@[simp] theorem createContext_held (t : HostTag) (r : Request) (l : Line) (s : State) :
    (createContext t r l s).held = s.held := rfl
@[simp] theorem createContext_pins (t : HostTag) (r : Request) (l : Line) (s : State) :
    (createContext t r l s).pins = s.pins := rfl
@[simp] theorem createContext_upLink (t : HostTag) (r : Request) (l : Line) (s : State) :
    (createContext t r l s).upLink = s.upLink := rfl
@[simp] theorem createContext_regions (t : HostTag) (r : Request) (l : Line) (s : State) :
    (createContext t r l s).regions = s.regions := rfl
@[simp] theorem createContext_stamps (t : HostTag) (r : Request) (l : Line) (s : State) :
    (createContext t r l s).stamps = s.stamps := rfl
@[simp] theorem createContext_ec (t : HostTag) (r : Request) (l : Line) (s : State) :
    (createContext t r l s).ec = s.ec := rfl
@[simp] theorem createContext_jr (t : HostTag) (r : Request) (l : Line) (s : State) :
    (createContext t r l s).jr = s.jr := rfl
@[simp] theorem createContext_ip (t : HostTag) (r : Request) (l : Line) (s : State) :
    (createContext t r l s).ip = s.ip := rfl
@[simp] theorem createContext_ss (t : HostTag) (r : Request) (l : Line) (s : State) :
    (createContext t r l s).ss = s.ss := rfl
@[simp] theorem createContext_lht (t : HostTag) (r : Request) (l : Line) (s : State) :
    (createContext t r l s).lht = s.lht := rfl
@[simp] theorem createContext_holds (t : HostTag) (r : Request) (l : Line) (s : State) :
    (createContext t r l s).holds = s.holds := rfl
@[simp] theorem createContext_dp (t : HostTag) (r : Request) (l : Line) (s : State) :
    (createContext t r l s).dp = s.dp := rfl
@[simp] theorem createContext_wu (t : HostTag) (r : Request) (l : Line) (s : State) :
    (createContext t r l s).wu = s.wu := rfl
@[simp] theorem createContext_eq (t : HostTag) (r : Request) (l : Line) (s : State) :
    (createContext t r l s).eq = s.eq := rfl
@[simp] theorem createContext_cfg (t : HostTag) (r : Request) (l : Line) (s : State) :
    (createContext t r l s).cfg = s.cfg := rfl
@[simp] theorem createContext_mp (t : HostTag) (r : Request) (l : Line) (s : State) :
    (createContext t r l s).mp = s.mp := rfl
@[simp] theorem createContext_upTx (t : HostTag) (r : Request) (l : Line) (s : State) :
    (createContext t r l s).upTx = s.upTx := rfl
@[simp] theorem createContext_downTx (t : HostTag) (r : Request) (l : Line) (s : State) :
    (createContext t r l s).downTx = s.downTx := rfl

/-! ### updateContext -/

@[simp] theorem updateContext_pending (t : HostTag) (g : Context → Context) (s : State) :
    (updateContext t g s).pending = s.pending := rfl
@[simp] theorem updateContext_now (t : HostTag) (g : Context → Context) (s : State) :
    (updateContext t g s).now = s.now := rfl
@[simp] theorem updateContext_held (t : HostTag) (g : Context → Context) (s : State) :
    (updateContext t g s).held = s.held := rfl
@[simp] theorem updateContext_pins (t : HostTag) (g : Context → Context) (s : State) :
    (updateContext t g s).pins = s.pins := rfl
@[simp] theorem updateContext_upLink (t : HostTag) (g : Context → Context) (s : State) :
    (updateContext t g s).upLink = s.upLink := rfl
@[simp] theorem updateContext_regions (t : HostTag) (g : Context → Context) (s : State) :
    (updateContext t g s).regions = s.regions := rfl
@[simp] theorem updateContext_stamps (t : HostTag) (g : Context → Context) (s : State) :
    (updateContext t g s).stamps = s.stamps := rfl
@[simp] theorem updateContext_ec (t : HostTag) (g : Context → Context) (s : State) :
    (updateContext t g s).ec = s.ec := rfl
@[simp] theorem updateContext_jr (t : HostTag) (g : Context → Context) (s : State) :
    (updateContext t g s).jr = s.jr := rfl
@[simp] theorem updateContext_ip (t : HostTag) (g : Context → Context) (s : State) :
    (updateContext t g s).ip = s.ip := rfl
@[simp] theorem updateContext_ss (t : HostTag) (g : Context → Context) (s : State) :
    (updateContext t g s).ss = s.ss := rfl
@[simp] theorem updateContext_lht (t : HostTag) (g : Context → Context) (s : State) :
    (updateContext t g s).lht = s.lht := rfl
@[simp] theorem updateContext_holds (t : HostTag) (g : Context → Context) (s : State) :
    (updateContext t g s).holds = s.holds := rfl
@[simp] theorem updateContext_dp (t : HostTag) (g : Context → Context) (s : State) :
    (updateContext t g s).dp = s.dp := rfl
@[simp] theorem updateContext_wu (t : HostTag) (g : Context → Context) (s : State) :
    (updateContext t g s).wu = s.wu := rfl
@[simp] theorem updateContext_eq (t : HostTag) (g : Context → Context) (s : State) :
    (updateContext t g s).eq = s.eq := rfl
@[simp] theorem updateContext_cfg (t : HostTag) (g : Context → Context) (s : State) :
    (updateContext t g s).cfg = s.cfg := rfl
@[simp] theorem updateContext_mp (t : HostTag) (g : Context → Context) (s : State) :
    (updateContext t g s).mp = s.mp := rfl
@[simp] theorem updateContext_upTx (t : HostTag) (g : Context → Context) (s : State) :
    (updateContext t g s).upTx = s.upTx := rfl
@[simp] theorem updateContext_downTx (t : HostTag) (g : Context → Context) (s : State) :
    (updateContext t g s).downTx = s.downTx := rfl

/-! ### dropContext -/

@[simp] theorem dropContext_pending (t : HostTag) (s : State) :
    (dropContext t s).pending = s.pending := rfl
@[simp] theorem dropContext_now (t : HostTag) (s : State) :
    (dropContext t s).now = s.now := rfl
@[simp] theorem dropContext_held (t : HostTag) (s : State) :
    (dropContext t s).held = s.held := rfl
@[simp] theorem dropContext_pins (t : HostTag) (s : State) :
    (dropContext t s).pins = s.pins := rfl
@[simp] theorem dropContext_upLink (t : HostTag) (s : State) :
    (dropContext t s).upLink = s.upLink := rfl
@[simp] theorem dropContext_regions (t : HostTag) (s : State) :
    (dropContext t s).regions = s.regions := rfl
@[simp] theorem dropContext_stamps (t : HostTag) (s : State) :
    (dropContext t s).stamps = s.stamps := rfl
@[simp] theorem dropContext_ec (t : HostTag) (s : State) :
    (dropContext t s).ec = s.ec := rfl
@[simp] theorem dropContext_jr (t : HostTag) (s : State) :
    (dropContext t s).jr = s.jr := rfl
@[simp] theorem dropContext_ip (t : HostTag) (s : State) :
    (dropContext t s).ip = s.ip := rfl
@[simp] theorem dropContext_ss (t : HostTag) (s : State) :
    (dropContext t s).ss = s.ss := rfl
@[simp] theorem dropContext_lht (t : HostTag) (s : State) :
    (dropContext t s).lht = s.lht := rfl
@[simp] theorem dropContext_holds (t : HostTag) (s : State) :
    (dropContext t s).holds = s.holds := rfl
@[simp] theorem dropContext_dp (t : HostTag) (s : State) :
    (dropContext t s).dp = s.dp := rfl
@[simp] theorem dropContext_wu (t : HostTag) (s : State) :
    (dropContext t s).wu = s.wu := rfl
@[simp] theorem dropContext_eq (t : HostTag) (s : State) :
    (dropContext t s).eq = s.eq := rfl
@[simp] theorem dropContext_cfg (t : HostTag) (s : State) :
    (dropContext t s).cfg = s.cfg := rfl
@[simp] theorem dropContext_mp (t : HostTag) (s : State) :
    (dropContext t s).mp = s.mp := rfl
@[simp] theorem dropContext_upTx (t : HostTag) (s : State) :
    (dropContext t s).upTx = s.upTx := rfl
@[simp] theorem dropContext_downTx (t : HostTag) (s : State) :
    (dropContext t s).downTx = s.downTx := rfl

/-! ### joinHolds -/

@[simp] theorem joinHolds_pending (t : HostTag) (l : Line) (r : HoldReason) (s : State) :
    (joinHolds t l r s).pending = s.pending := rfl
@[simp] theorem joinHolds_now (t : HostTag) (l : Line) (r : HoldReason) (s : State) :
    (joinHolds t l r s).now = s.now := rfl
@[simp] theorem joinHolds_held (t : HostTag) (l : Line) (r : HoldReason) (s : State) :
    (joinHolds t l r s).held = s.held := rfl
@[simp] theorem joinHolds_pins (t : HostTag) (l : Line) (r : HoldReason) (s : State) :
    (joinHolds t l r s).pins = s.pins := rfl
@[simp] theorem joinHolds_upLink (t : HostTag) (l : Line) (r : HoldReason) (s : State) :
    (joinHolds t l r s).upLink = s.upLink := rfl
@[simp] theorem joinHolds_regions (t : HostTag) (l : Line) (r : HoldReason) (s : State) :
    (joinHolds t l r s).regions = s.regions := rfl
@[simp] theorem joinHolds_stamps (t : HostTag) (l : Line) (r : HoldReason) (s : State) :
    (joinHolds t l r s).stamps = s.stamps := rfl
@[simp] theorem joinHolds_ec (t : HostTag) (l : Line) (r : HoldReason) (s : State) :
    (joinHolds t l r s).ec = s.ec := rfl
@[simp] theorem joinHolds_jr (t : HostTag) (l : Line) (r : HoldReason) (s : State) :
    (joinHolds t l r s).jr = s.jr := rfl
@[simp] theorem joinHolds_ip (t : HostTag) (l : Line) (r : HoldReason) (s : State) :
    (joinHolds t l r s).ip = s.ip := rfl
@[simp] theorem joinHolds_ss (t : HostTag) (l : Line) (r : HoldReason) (s : State) :
    (joinHolds t l r s).ss = s.ss := rfl
@[simp] theorem joinHolds_contexts (t : HostTag) (l : Line) (r : HoldReason) (s : State) :
    (joinHolds t l r s).contexts = s.contexts := rfl
@[simp] theorem joinHolds_lht (t : HostTag) (l : Line) (r : HoldReason) (s : State) :
    (joinHolds t l r s).lht = s.lht := rfl
@[simp] theorem joinHolds_dp (t : HostTag) (l : Line) (r : HoldReason) (s : State) :
    (joinHolds t l r s).dp = s.dp := rfl
@[simp] theorem joinHolds_wu (t : HostTag) (l : Line) (r : HoldReason) (s : State) :
    (joinHolds t l r s).wu = s.wu := rfl
@[simp] theorem joinHolds_eq (t : HostTag) (l : Line) (r : HoldReason) (s : State) :
    (joinHolds t l r s).eq = s.eq := rfl
@[simp] theorem joinHolds_cfg (t : HostTag) (l : Line) (r : HoldReason) (s : State) :
    (joinHolds t l r s).cfg = s.cfg := rfl
@[simp] theorem joinHolds_mp (t : HostTag) (l : Line) (r : HoldReason) (s : State) :
    (joinHolds t l r s).mp = s.mp := rfl
@[simp] theorem joinHolds_upTx (t : HostTag) (l : Line) (r : HoldReason) (s : State) :
    (joinHolds t l r s).upTx = s.upTx := rfl
@[simp] theorem joinHolds_downTx (t : HostTag) (l : Line) (r : HoldReason) (s : State) :
    (joinHolds t l r s).downTx = s.downTx := rfl

/-! ### leaveHolds -/

@[simp] theorem leaveHolds_pending (t : HostTag) (s : State) :
    (leaveHolds t s).pending = s.pending := rfl
@[simp] theorem leaveHolds_now (t : HostTag) (s : State) :
    (leaveHolds t s).now = s.now := rfl
@[simp] theorem leaveHolds_held (t : HostTag) (s : State) :
    (leaveHolds t s).held = s.held := rfl
@[simp] theorem leaveHolds_pins (t : HostTag) (s : State) :
    (leaveHolds t s).pins = s.pins := rfl
@[simp] theorem leaveHolds_upLink (t : HostTag) (s : State) :
    (leaveHolds t s).upLink = s.upLink := rfl
@[simp] theorem leaveHolds_regions (t : HostTag) (s : State) :
    (leaveHolds t s).regions = s.regions := rfl
@[simp] theorem leaveHolds_stamps (t : HostTag) (s : State) :
    (leaveHolds t s).stamps = s.stamps := rfl
@[simp] theorem leaveHolds_ec (t : HostTag) (s : State) :
    (leaveHolds t s).ec = s.ec := rfl
@[simp] theorem leaveHolds_jr (t : HostTag) (s : State) :
    (leaveHolds t s).jr = s.jr := rfl
@[simp] theorem leaveHolds_ip (t : HostTag) (s : State) :
    (leaveHolds t s).ip = s.ip := rfl
@[simp] theorem leaveHolds_ss (t : HostTag) (s : State) :
    (leaveHolds t s).ss = s.ss := rfl
@[simp] theorem leaveHolds_contexts (t : HostTag) (s : State) :
    (leaveHolds t s).contexts = s.contexts := rfl
@[simp] theorem leaveHolds_lht (t : HostTag) (s : State) :
    (leaveHolds t s).lht = s.lht := rfl
@[simp] theorem leaveHolds_dp (t : HostTag) (s : State) :
    (leaveHolds t s).dp = s.dp := rfl
@[simp] theorem leaveHolds_wu (t : HostTag) (s : State) :
    (leaveHolds t s).wu = s.wu := rfl
@[simp] theorem leaveHolds_eq (t : HostTag) (s : State) :
    (leaveHolds t s).eq = s.eq := rfl
@[simp] theorem leaveHolds_cfg (t : HostTag) (s : State) :
    (leaveHolds t s).cfg = s.cfg := rfl
@[simp] theorem leaveHolds_mp (t : HostTag) (s : State) :
    (leaveHolds t s).mp = s.mp := rfl
@[simp] theorem leaveHolds_upTx (t : HostTag) (s : State) :
    (leaveHolds t s).upTx = s.upTx := rfl
@[simp] theorem leaveHolds_downTx (t : HostTag) (s : State) :
    (leaveHolds t s).downTx = s.downTx := rfl

/-! ### joinChain -/

@[simp] theorem joinChain_pending (l : Line) (st : Step) (s : State) :
    (joinChain l st s).pending = s.pending := rfl
@[simp] theorem joinChain_now (l : Line) (st : Step) (s : State) :
    (joinChain l st s).now = s.now := rfl
@[simp] theorem joinChain_held (l : Line) (st : Step) (s : State) :
    (joinChain l st s).held = s.held := rfl
@[simp] theorem joinChain_pins (l : Line) (st : Step) (s : State) :
    (joinChain l st s).pins = s.pins := rfl
@[simp] theorem joinChain_upLink (l : Line) (st : Step) (s : State) :
    (joinChain l st s).upLink = s.upLink := rfl
@[simp] theorem joinChain_regions (l : Line) (st : Step) (s : State) :
    (joinChain l st s).regions = s.regions := rfl
@[simp] theorem joinChain_stamps (l : Line) (st : Step) (s : State) :
    (joinChain l st s).stamps = s.stamps := rfl
@[simp] theorem joinChain_ec (l : Line) (st : Step) (s : State) :
    (joinChain l st s).ec = s.ec := rfl
@[simp] theorem joinChain_jr (l : Line) (st : Step) (s : State) :
    (joinChain l st s).jr = s.jr := rfl
@[simp] theorem joinChain_ip (l : Line) (st : Step) (s : State) :
    (joinChain l st s).ip = s.ip := rfl
@[simp] theorem joinChain_ss (l : Line) (st : Step) (s : State) :
    (joinChain l st s).ss = s.ss := rfl
@[simp] theorem joinChain_contexts (l : Line) (st : Step) (s : State) :
    (joinChain l st s).contexts = s.contexts := rfl
@[simp] theorem joinChain_holds (l : Line) (st : Step) (s : State) :
    (joinChain l st s).holds = s.holds := rfl
@[simp] theorem joinChain_dp (l : Line) (st : Step) (s : State) :
    (joinChain l st s).dp = s.dp := rfl
@[simp] theorem joinChain_wu (l : Line) (st : Step) (s : State) :
    (joinChain l st s).wu = s.wu := rfl
@[simp] theorem joinChain_eq (l : Line) (st : Step) (s : State) :
    (joinChain l st s).eq = s.eq := rfl
@[simp] theorem joinChain_cfg (l : Line) (st : Step) (s : State) :
    (joinChain l st s).cfg = s.cfg := rfl
@[simp] theorem joinChain_mp (l : Line) (st : Step) (s : State) :
    (joinChain l st s).mp = s.mp := rfl
@[simp] theorem joinChain_upTx (l : Line) (st : Step) (s : State) :
    (joinChain l st s).upTx = s.upTx := rfl
@[simp] theorem joinChain_downTx (l : Line) (st : Step) (s : State) :
    (joinChain l st s).downTx = s.downTx := rfl

/-! ### leaveChain -/

@[simp] theorem leaveChain_pending (l : Line) (st : Step) (s : State) :
    (leaveChain l st s).pending = s.pending := rfl
@[simp] theorem leaveChain_now (l : Line) (st : Step) (s : State) :
    (leaveChain l st s).now = s.now := rfl
@[simp] theorem leaveChain_held (l : Line) (st : Step) (s : State) :
    (leaveChain l st s).held = s.held := rfl
@[simp] theorem leaveChain_pins (l : Line) (st : Step) (s : State) :
    (leaveChain l st s).pins = s.pins := rfl
@[simp] theorem leaveChain_upLink (l : Line) (st : Step) (s : State) :
    (leaveChain l st s).upLink = s.upLink := rfl
@[simp] theorem leaveChain_regions (l : Line) (st : Step) (s : State) :
    (leaveChain l st s).regions = s.regions := rfl
@[simp] theorem leaveChain_stamps (l : Line) (st : Step) (s : State) :
    (leaveChain l st s).stamps = s.stamps := rfl
@[simp] theorem leaveChain_ec (l : Line) (st : Step) (s : State) :
    (leaveChain l st s).ec = s.ec := rfl
@[simp] theorem leaveChain_jr (l : Line) (st : Step) (s : State) :
    (leaveChain l st s).jr = s.jr := rfl
@[simp] theorem leaveChain_ip (l : Line) (st : Step) (s : State) :
    (leaveChain l st s).ip = s.ip := rfl
@[simp] theorem leaveChain_ss (l : Line) (st : Step) (s : State) :
    (leaveChain l st s).ss = s.ss := rfl
@[simp] theorem leaveChain_contexts (l : Line) (st : Step) (s : State) :
    (leaveChain l st s).contexts = s.contexts := rfl
@[simp] theorem leaveChain_holds (l : Line) (st : Step) (s : State) :
    (leaveChain l st s).holds = s.holds := rfl
@[simp] theorem leaveChain_dp (l : Line) (st : Step) (s : State) :
    (leaveChain l st s).dp = s.dp := rfl
@[simp] theorem leaveChain_wu (l : Line) (st : Step) (s : State) :
    (leaveChain l st s).wu = s.wu := rfl
@[simp] theorem leaveChain_eq (l : Line) (st : Step) (s : State) :
    (leaveChain l st s).eq = s.eq := rfl
@[simp] theorem leaveChain_cfg (l : Line) (st : Step) (s : State) :
    (leaveChain l st s).cfg = s.cfg := rfl
@[simp] theorem leaveChain_mp (l : Line) (st : Step) (s : State) :
    (leaveChain l st s).mp = s.mp := rfl
@[simp] theorem leaveChain_upTx (l : Line) (st : Step) (s : State) :
    (leaveChain l st s).upTx = s.upTx := rfl
@[simp] theorem leaveChain_downTx (l : Line) (st : Step) (s : State) :
    (leaveChain l st s).downTx = s.downTx := rfl

/-! ### waitForTag -/

@[simp] theorem waitForTag_pending (st : Step) (s : State) :
    (waitForTag st s).pending = s.pending := rfl
@[simp] theorem waitForTag_now (st : Step) (s : State) :
    (waitForTag st s).now = s.now := rfl
@[simp] theorem waitForTag_held (st : Step) (s : State) :
    (waitForTag st s).held = s.held := rfl
@[simp] theorem waitForTag_pins (st : Step) (s : State) :
    (waitForTag st s).pins = s.pins := rfl
@[simp] theorem waitForTag_upLink (st : Step) (s : State) :
    (waitForTag st s).upLink = s.upLink := rfl
@[simp] theorem waitForTag_regions (st : Step) (s : State) :
    (waitForTag st s).regions = s.regions := rfl
@[simp] theorem waitForTag_stamps (st : Step) (s : State) :
    (waitForTag st s).stamps = s.stamps := rfl
@[simp] theorem waitForTag_ec (st : Step) (s : State) :
    (waitForTag st s).ec = s.ec := rfl
@[simp] theorem waitForTag_jr (st : Step) (s : State) :
    (waitForTag st s).jr = s.jr := rfl
@[simp] theorem waitForTag_ip (st : Step) (s : State) :
    (waitForTag st s).ip = s.ip := rfl
@[simp] theorem waitForTag_ss (st : Step) (s : State) :
    (waitForTag st s).ss = s.ss := rfl
@[simp] theorem waitForTag_contexts (st : Step) (s : State) :
    (waitForTag st s).contexts = s.contexts := rfl
@[simp] theorem waitForTag_lht (st : Step) (s : State) :
    (waitForTag st s).lht = s.lht := rfl
@[simp] theorem waitForTag_holds (st : Step) (s : State) :
    (waitForTag st s).holds = s.holds := rfl
@[simp] theorem waitForTag_dp_link (st : Step) (s : State) :
    (waitForTag st s).dp.link = s.dp.link := rfl
@[simp] theorem waitForTag_dp_tracker (st : Step) (s : State) :
    (waitForTag st s).dp.tracker = s.dp.tracker := rfl
@[simp] theorem waitForTag_dp_quarantine (st : Step) (s : State) :
    (waitForTag st s).dp.quarantine = s.dp.quarantine := rfl
@[simp] theorem waitForTag_wu (st : Step) (s : State) :
    (waitForTag st s).wu = s.wu := rfl
@[simp] theorem waitForTag_eq (st : Step) (s : State) :
    (waitForTag st s).eq = s.eq := rfl
@[simp] theorem waitForTag_cfg (st : Step) (s : State) :
    (waitForTag st s).cfg = s.cfg := rfl
@[simp] theorem waitForTag_mp (st : Step) (s : State) :
    (waitForTag st s).mp = s.mp := rfl
@[simp] theorem waitForTag_upTx (st : Step) (s : State) :
    (waitForTag st s).upTx = s.upTx := rfl
@[simp] theorem waitForTag_downTx (st : Step) (s : State) :
    (waitForTag st s).downTx = s.downTx := rfl

/-! ### waitFirst -/

@[simp] theorem waitFirst_pending (st : Step) (s : State) :
    (waitFirst st s).pending = s.pending := rfl
@[simp] theorem waitFirst_now (st : Step) (s : State) :
    (waitFirst st s).now = s.now := rfl
@[simp] theorem waitFirst_held (st : Step) (s : State) :
    (waitFirst st s).held = s.held := rfl
@[simp] theorem waitFirst_pins (st : Step) (s : State) :
    (waitFirst st s).pins = s.pins := rfl
@[simp] theorem waitFirst_upLink (st : Step) (s : State) :
    (waitFirst st s).upLink = s.upLink := rfl
@[simp] theorem waitFirst_regions (st : Step) (s : State) :
    (waitFirst st s).regions = s.regions := rfl
@[simp] theorem waitFirst_stamps (st : Step) (s : State) :
    (waitFirst st s).stamps = s.stamps := rfl
@[simp] theorem waitFirst_ec (st : Step) (s : State) :
    (waitFirst st s).ec = s.ec := rfl
@[simp] theorem waitFirst_jr (st : Step) (s : State) :
    (waitFirst st s).jr = s.jr := rfl
@[simp] theorem waitFirst_ip (st : Step) (s : State) :
    (waitFirst st s).ip = s.ip := rfl
@[simp] theorem waitFirst_ss (st : Step) (s : State) :
    (waitFirst st s).ss = s.ss := rfl
@[simp] theorem waitFirst_contexts (st : Step) (s : State) :
    (waitFirst st s).contexts = s.contexts := rfl
@[simp] theorem waitFirst_lht (st : Step) (s : State) :
    (waitFirst st s).lht = s.lht := rfl
@[simp] theorem waitFirst_holds (st : Step) (s : State) :
    (waitFirst st s).holds = s.holds := rfl
@[simp] theorem waitFirst_dp_link (st : Step) (s : State) :
    (waitFirst st s).dp.link = s.dp.link := rfl
@[simp] theorem waitFirst_dp_tracker (st : Step) (s : State) :
    (waitFirst st s).dp.tracker = s.dp.tracker := rfl
@[simp] theorem waitFirst_dp_quarantine (st : Step) (s : State) :
    (waitFirst st s).dp.quarantine = s.dp.quarantine := rfl
@[simp] theorem waitFirst_wu (st : Step) (s : State) :
    (waitFirst st s).wu = s.wu := rfl
@[simp] theorem waitFirst_eq (st : Step) (s : State) :
    (waitFirst st s).eq = s.eq := rfl
@[simp] theorem waitFirst_cfg (st : Step) (s : State) :
    (waitFirst st s).cfg = s.cfg := rfl
@[simp] theorem waitFirst_mp (st : Step) (s : State) :
    (waitFirst st s).mp = s.mp := rfl
@[simp] theorem waitFirst_upTx (st : Step) (s : State) :
    (waitFirst st s).upTx = s.upTx := rfl
@[simp] theorem waitFirst_downTx (st : Step) (s : State) :
    (waitFirst st s).downTx = s.downTx := rfl

/-! ### stopWaiting -/

@[simp] theorem stopWaiting_pending (st : Step) (s : State) :
    (stopWaiting st s).pending = s.pending := rfl
@[simp] theorem stopWaiting_now (st : Step) (s : State) :
    (stopWaiting st s).now = s.now := rfl
@[simp] theorem stopWaiting_held (st : Step) (s : State) :
    (stopWaiting st s).held = s.held := rfl
@[simp] theorem stopWaiting_pins (st : Step) (s : State) :
    (stopWaiting st s).pins = s.pins := rfl
@[simp] theorem stopWaiting_upLink (st : Step) (s : State) :
    (stopWaiting st s).upLink = s.upLink := rfl
@[simp] theorem stopWaiting_regions (st : Step) (s : State) :
    (stopWaiting st s).regions = s.regions := rfl
@[simp] theorem stopWaiting_stamps (st : Step) (s : State) :
    (stopWaiting st s).stamps = s.stamps := rfl
@[simp] theorem stopWaiting_ec (st : Step) (s : State) :
    (stopWaiting st s).ec = s.ec := rfl
@[simp] theorem stopWaiting_jr (st : Step) (s : State) :
    (stopWaiting st s).jr = s.jr := rfl
@[simp] theorem stopWaiting_ip (st : Step) (s : State) :
    (stopWaiting st s).ip = s.ip := rfl
@[simp] theorem stopWaiting_ss (st : Step) (s : State) :
    (stopWaiting st s).ss = s.ss := rfl
@[simp] theorem stopWaiting_contexts (st : Step) (s : State) :
    (stopWaiting st s).contexts = s.contexts := rfl
@[simp] theorem stopWaiting_lht (st : Step) (s : State) :
    (stopWaiting st s).lht = s.lht := rfl
@[simp] theorem stopWaiting_holds (st : Step) (s : State) :
    (stopWaiting st s).holds = s.holds := rfl
@[simp] theorem stopWaiting_dp_link (st : Step) (s : State) :
    (stopWaiting st s).dp.link = s.dp.link := rfl
@[simp] theorem stopWaiting_dp_tracker (st : Step) (s : State) :
    (stopWaiting st s).dp.tracker = s.dp.tracker := rfl
@[simp] theorem stopWaiting_dp_quarantine (st : Step) (s : State) :
    (stopWaiting st s).dp.quarantine = s.dp.quarantine := rfl
@[simp] theorem stopWaiting_wu (st : Step) (s : State) :
    (stopWaiting st s).wu = s.wu := rfl
@[simp] theorem stopWaiting_eq (st : Step) (s : State) :
    (stopWaiting st s).eq = s.eq := rfl
@[simp] theorem stopWaiting_cfg (st : Step) (s : State) :
    (stopWaiting st s).cfg = s.cfg := rfl
@[simp] theorem stopWaiting_mp (st : Step) (s : State) :
    (stopWaiting st s).mp = s.mp := rfl
@[simp] theorem stopWaiting_upTx (st : Step) (s : State) :
    (stopWaiting st s).upTx = s.upTx := rfl
@[simp] theorem stopWaiting_downTx (st : Step) (s : State) :
    (stopWaiting st s).downTx = s.downTx := rfl

/-! ### discardContext -/

@[simp] theorem discardContext_pending (t : HostTag) (c : Context) (s : State) :
    (discardContext t c s).pending = s.pending := by simp [discardContext]
@[simp] theorem discardContext_now (t : HostTag) (c : Context) (s : State) :
    (discardContext t c s).now = s.now := by simp [discardContext]
@[simp] theorem discardContext_held (t : HostTag) (c : Context) (s : State) :
    (discardContext t c s).held = s.held := by simp [discardContext]
@[simp] theorem discardContext_pins (t : HostTag) (c : Context) (s : State) :
    (discardContext t c s).pins = s.pins := by simp [discardContext]
@[simp] theorem discardContext_upLink (t : HostTag) (c : Context) (s : State) :
    (discardContext t c s).upLink = s.upLink := by simp [discardContext]
@[simp] theorem discardContext_regions (t : HostTag) (c : Context) (s : State) :
    (discardContext t c s).regions = s.regions := by simp [discardContext]
@[simp] theorem discardContext_stamps (t : HostTag) (c : Context) (s : State) :
    (discardContext t c s).stamps = s.stamps := by simp [discardContext]
@[simp] theorem discardContext_ec (t : HostTag) (c : Context) (s : State) :
    (discardContext t c s).ec = s.ec := by simp [discardContext]
@[simp] theorem discardContext_jr (t : HostTag) (c : Context) (s : State) :
    (discardContext t c s).jr = s.jr := by simp [discardContext]
@[simp] theorem discardContext_ip (t : HostTag) (c : Context) (s : State) :
    (discardContext t c s).ip = s.ip := by simp [discardContext]
@[simp] theorem discardContext_ss (t : HostTag) (c : Context) (s : State) :
    (discardContext t c s).ss = s.ss := by simp [discardContext]
@[simp] theorem discardContext_dp_link (t : HostTag) (c : Context) (s : State) :
    (discardContext t c s).dp.link = s.dp.link := by simp [discardContext]
@[simp] theorem discardContext_dp_tracker (t : HostTag) (c : Context) (s : State) :
    (discardContext t c s).dp.tracker = s.dp.tracker := by simp [discardContext]
@[simp] theorem discardContext_dp_quarantine (t : HostTag) (c : Context) (s : State) :
    (discardContext t c s).dp.quarantine = s.dp.quarantine := by simp [discardContext]
@[simp] theorem discardContext_wu (t : HostTag) (c : Context) (s : State) :
    (discardContext t c s).wu = s.wu := by simp [discardContext]
@[simp] theorem discardContext_eq (t : HostTag) (c : Context) (s : State) :
    (discardContext t c s).eq = s.eq := by simp [discardContext]
@[simp] theorem discardContext_cfg (t : HostTag) (c : Context) (s : State) :
    (discardContext t c s).cfg = s.cfg := by simp [discardContext]
@[simp] theorem discardContext_mp (t : HostTag) (c : Context) (s : State) :
    (discardContext t c s).mp = s.mp := by simp [discardContext]
@[simp] theorem discardContext_upTx (t : HostTag) (c : Context) (s : State) :
    (discardContext t c s).upTx = s.upTx := by simp [discardContext]
@[simp] theorem discardContext_downTx (t : HostTag) (c : Context) (s : State) :
    (discardContext t c s).downTx = s.downTx := by simp [discardContext]

/-! ### endContext -/

@[simp] theorem endContext_pins_mark (t : HostTag) (c : Context) (st : HostStatus) (d : Option Data) (s : State) :
    (endContext t c st d s).pins.mark = s.pins.mark := rfl
@[simp] theorem endContext_pins_undo (t : HostTag) (c : Context) (st : HostStatus) (d : Option Data) (s : State) :
    (endContext t c st d s).pins.undo = s.pins.undo := rfl
@[simp] theorem endContext_pins_upIndication (t : HostTag) (c : Context) (st : HostStatus) (d : Option Data) (s : State) :
    (endContext t c st d s).pins.upIndication = s.pins.upIndication := rfl
@[simp] theorem endContext_pins_downIndication (t : HostTag) (c : Context) (st : HostStatus) (d : Option Data) (s : State) :
    (endContext t c st d s).pins.downIndication = s.pins.downIndication := rfl
@[simp] theorem endContext_ec_stack (t : HostTag) (c : Context) (st : HostStatus) (d : Option Data) (s : State) :
    (endContext t c st d s).ec.stack = s.ec.stack := rfl
@[simp] theorem endContext_ec_counter (t : HostTag) (c : Context) (st : HostStatus) (d : Option Data) (s : State) :
    (endContext t c st d s).ec.counter = s.ec.counter := rfl
@[simp] theorem endContext_ec_closingOrigin (t : HostTag) (c : Context) (st : HostStatus) (d : Option Data) (s : State) :
    (endContext t c st d s).ec.closingOrigin = s.ec.closingOrigin := rfl
@[simp] theorem endContext_ec_sequencer (t : HostTag) (c : Context) (st : HostStatus) (d : Option Data) (s : State) :
    (endContext t c st d s).ec.sequencer = s.ec.sequencer := rfl
@[simp] theorem endContext_ec_removedSome (t : HostTag) (c : Context) (st : HostStatus) (d : Option Data) (s : State) :
    (endContext t c st d s).ec.removedSome = s.ec.removedSome := rfl
@[simp] theorem endContext_jr_head (t : HostTag) (c : Context) (st : HostStatus) (d : Option Data) (s : State) :
    (endContext t c st d s).jr.head = s.jr.head := rfl
@[simp] theorem endContext_jr_tail (t : HostTag) (c : Context) (st : HostStatus) (d : Option Data) (s : State) :
    (endContext t c st d s).jr.tail = s.jr.tail := rfl
@[simp] theorem endContext_jr_full (t : HostTag) (c : Context) (st : HostStatus) (d : Option Data) (s : State) :
    (endContext t c st d s).jr.full = s.jr.full := rfl
@[simp] theorem endContext_jr_records (t : HostTag) (c : Context) (st : HostStatus) (d : Option Data) (s : State) :
    (endContext t c st d s).jr.records = s.jr.records := rfl
@[simp] theorem endContext_jr_lowArmed (t : HostTag) (c : Context) (st : HostStatus) (d : Option Data) (s : State) :
    (endContext t c st d s).jr.lowArmed = s.jr.lowArmed := rfl
@[simp] theorem endContext_ip_free (t : HostTag) (c : Context) (st : HostStatus) (d : Option Data) (s : State) :
    (endContext t c st d s).ip.free = s.ip.free := rfl
@[simp] theorem endContext_ip_retiring (t : HostTag) (c : Context) (st : HostStatus) (d : Option Data) (s : State) :
    (endContext t c st d s).ip.retiring = s.ip.retiring := rfl
@[simp] theorem endContext_dp_link (t : HostTag) (c : Context) (st : HostStatus) (d : Option Data) (s : State) :
    (endContext t c st d s).dp.link = s.dp.link := rfl
@[simp] theorem endContext_dp_tracker (t : HostTag) (c : Context) (st : HostStatus) (d : Option Data) (s : State) :
    (endContext t c st d s).dp.tracker = s.dp.tracker := rfl
@[simp] theorem endContext_dp_quarantine (t : HostTag) (c : Context) (st : HostStatus) (d : Option Data) (s : State) :
    (endContext t c st d s).dp.quarantine = s.dp.quarantine := rfl
@[simp] theorem endContext_wu_watches (t : HostTag) (c : Context) (st : HostStatus) (d : Option Data) (s : State) :
    (endContext t c st d s).wu.watches = s.wu.watches := rfl
@[simp] theorem endContext_wu_rules (t : HostTag) (c : Context) (st : HostStatus) (d : Option Data) (s : State) :
    (endContext t c st d s).wu.rules = s.wu.rules := rfl
@[simp] theorem endContext_eq_queue (t : HostTag) (c : Context) (st : HostStatus) (d : Option Data) (s : State) :
    (endContext t c st d s).eq.queue = s.eq.queue := rfl
@[simp] theorem endContext_eq_lost (t : HostTag) (c : Context) (st : HostStatus) (d : Option Data) (s : State) :
    (endContext t c st d s).eq.lost = s.eq.lost := rfl
@[simp] theorem endContext_eq_counter (t : HostTag) (c : Context) (st : HostStatus) (d : Option Data) (s : State) :
    (endContext t c st d s).eq.counter = s.eq.counter := rfl
@[simp] theorem endContext_eq_alert (t : HostTag) (c : Context) (st : HostStatus) (d : Option Data) (s : State) :
    (endContext t c st d s).eq.alert = s.eq.alert := rfl
@[simp] theorem endContext_mp_reply (t : HostTag) (c : Context) (st : HostStatus) (d : Option Data) (s : State) :
    (endContext t c st d s).mp.reply = s.mp.reply := rfl
@[simp] theorem endContext_mp_frame (t : HostTag) (c : Context) (st : HostStatus) (d : Option Data) (s : State) :
    (endContext t c st d s).mp.frame = s.mp.frame := rfl

/-! ### holdRequest -/

@[simp] theorem holdRequest_pending (t : HostTag) (c : Context) (s : State) :
    (holdRequest t c s).pending = s.pending := by simp [holdRequest]
@[simp] theorem holdRequest_now (t : HostTag) (c : Context) (s : State) :
    (holdRequest t c s).now = s.now := by simp [holdRequest]
@[simp] theorem holdRequest_held (t : HostTag) (c : Context) (s : State) :
    (holdRequest t c s).held = s.held := by simp [holdRequest]
@[simp] theorem holdRequest_pins (t : HostTag) (c : Context) (s : State) :
    (holdRequest t c s).pins = s.pins := by simp [holdRequest]
@[simp] theorem holdRequest_upLink (t : HostTag) (c : Context) (s : State) :
    (holdRequest t c s).upLink = s.upLink := by simp [holdRequest]
@[simp] theorem holdRequest_regions (t : HostTag) (c : Context) (s : State) :
    (holdRequest t c s).regions = s.regions := by simp [holdRequest]
@[simp] theorem holdRequest_stamps (t : HostTag) (c : Context) (s : State) :
    (holdRequest t c s).stamps = s.stamps := by simp [holdRequest]
@[simp] theorem holdRequest_ec (t : HostTag) (c : Context) (s : State) :
    (holdRequest t c s).ec = s.ec := by simp [holdRequest]
@[simp] theorem holdRequest_jr (t : HostTag) (c : Context) (s : State) :
    (holdRequest t c s).jr = s.jr := by simp [holdRequest]
@[simp] theorem holdRequest_ip (t : HostTag) (c : Context) (s : State) :
    (holdRequest t c s).ip = s.ip := by simp [holdRequest]
@[simp] theorem holdRequest_ss (t : HostTag) (c : Context) (s : State) :
    (holdRequest t c s).ss = s.ss := by simp [holdRequest]
@[simp] theorem holdRequest_dp_link (t : HostTag) (c : Context) (s : State) :
    (holdRequest t c s).dp.link = s.dp.link := by simp [holdRequest]
@[simp] theorem holdRequest_dp_tracker (t : HostTag) (c : Context) (s : State) :
    (holdRequest t c s).dp.tracker = s.dp.tracker := by simp [holdRequest]
@[simp] theorem holdRequest_dp_quarantine (t : HostTag) (c : Context) (s : State) :
    (holdRequest t c s).dp.quarantine = s.dp.quarantine := by simp [holdRequest]
@[simp] theorem holdRequest_wu (t : HostTag) (c : Context) (s : State) :
    (holdRequest t c s).wu = s.wu := by simp [holdRequest]
@[simp] theorem holdRequest_eq (t : HostTag) (c : Context) (s : State) :
    (holdRequest t c s).eq = s.eq := by simp [holdRequest]
@[simp] theorem holdRequest_cfg (t : HostTag) (c : Context) (s : State) :
    (holdRequest t c s).cfg = s.cfg := by simp [holdRequest]
@[simp] theorem holdRequest_mp (t : HostTag) (c : Context) (s : State) :
    (holdRequest t c s).mp = s.mp := by simp [holdRequest]
@[simp] theorem holdRequest_upTx (t : HostTag) (c : Context) (s : State) :
    (holdRequest t c s).upTx = s.upTx := by simp [holdRequest]
@[simp] theorem holdRequest_downTx (t : HostTag) (c : Context) (s : State) :
    (holdRequest t c s).downTx = s.downTx := by simp [holdRequest]

/-! ### queueRequest -/

@[simp] theorem queueRequest_pending (t : HostTag) (l : Line) (s : State) :
    (queueRequest t l s).pending = s.pending := by simp [queueRequest]
@[simp] theorem queueRequest_now (t : HostTag) (l : Line) (s : State) :
    (queueRequest t l s).now = s.now := by simp [queueRequest]
@[simp] theorem queueRequest_held (t : HostTag) (l : Line) (s : State) :
    (queueRequest t l s).held = s.held := by simp [queueRequest]
@[simp] theorem queueRequest_pins (t : HostTag) (l : Line) (s : State) :
    (queueRequest t l s).pins = s.pins := by simp [queueRequest]
@[simp] theorem queueRequest_upLink (t : HostTag) (l : Line) (s : State) :
    (queueRequest t l s).upLink = s.upLink := by simp [queueRequest]
@[simp] theorem queueRequest_regions (t : HostTag) (l : Line) (s : State) :
    (queueRequest t l s).regions = s.regions := by simp [queueRequest]
@[simp] theorem queueRequest_stamps (t : HostTag) (l : Line) (s : State) :
    (queueRequest t l s).stamps = s.stamps := by simp [queueRequest]
@[simp] theorem queueRequest_ec (t : HostTag) (l : Line) (s : State) :
    (queueRequest t l s).ec = s.ec := by simp [queueRequest]
@[simp] theorem queueRequest_jr (t : HostTag) (l : Line) (s : State) :
    (queueRequest t l s).jr = s.jr := by simp [queueRequest]
@[simp] theorem queueRequest_ip (t : HostTag) (l : Line) (s : State) :
    (queueRequest t l s).ip = s.ip := by simp [queueRequest]
@[simp] theorem queueRequest_ss (t : HostTag) (l : Line) (s : State) :
    (queueRequest t l s).ss = s.ss := by simp [queueRequest]
@[simp] theorem queueRequest_holds (t : HostTag) (l : Line) (s : State) :
    (queueRequest t l s).holds = s.holds := by simp [queueRequest]
@[simp] theorem queueRequest_dp (t : HostTag) (l : Line) (s : State) :
    (queueRequest t l s).dp = s.dp := by simp [queueRequest]
@[simp] theorem queueRequest_wu (t : HostTag) (l : Line) (s : State) :
    (queueRequest t l s).wu = s.wu := by simp [queueRequest]
@[simp] theorem queueRequest_eq (t : HostTag) (l : Line) (s : State) :
    (queueRequest t l s).eq = s.eq := by simp [queueRequest]
@[simp] theorem queueRequest_cfg (t : HostTag) (l : Line) (s : State) :
    (queueRequest t l s).cfg = s.cfg := by simp [queueRequest]
@[simp] theorem queueRequest_mp (t : HostTag) (l : Line) (s : State) :
    (queueRequest t l s).mp = s.mp := by simp [queueRequest]
@[simp] theorem queueRequest_upTx (t : HostTag) (l : Line) (s : State) :
    (queueRequest t l s).upTx = s.upTx := by simp [queueRequest]
@[simp] theorem queueRequest_downTx (t : HostTag) (l : Line) (s : State) :
    (queueRequest t l s).downTx = s.downTx := by simp [queueRequest]

/-! ### forwardRead -/

@[simp] theorem forwardRead_pending (t : HostTag) (l : Line) (g : DownTag) (s : State) :
    (forwardRead t l g s).pending = s.pending := by simp [forwardRead]
@[simp] theorem forwardRead_now (t : HostTag) (l : Line) (g : DownTag) (s : State) :
    (forwardRead t l g s).now = s.now := by simp [forwardRead]
@[simp] theorem forwardRead_held (t : HostTag) (l : Line) (g : DownTag) (s : State) :
    (forwardRead t l g s).held = s.held := by simp [forwardRead]
@[simp] theorem forwardRead_pins (t : HostTag) (l : Line) (g : DownTag) (s : State) :
    (forwardRead t l g s).pins = s.pins := by simp [forwardRead]
@[simp] theorem forwardRead_upLink (t : HostTag) (l : Line) (g : DownTag) (s : State) :
    (forwardRead t l g s).upLink = s.upLink := by simp [forwardRead]
@[simp] theorem forwardRead_regions (t : HostTag) (l : Line) (g : DownTag) (s : State) :
    (forwardRead t l g s).regions = s.regions := by simp [forwardRead]
@[simp] theorem forwardRead_stamps (t : HostTag) (l : Line) (g : DownTag) (s : State) :
    (forwardRead t l g s).stamps = s.stamps := by simp [forwardRead]
@[simp] theorem forwardRead_ec (t : HostTag) (l : Line) (g : DownTag) (s : State) :
    (forwardRead t l g s).ec = s.ec := by simp [forwardRead]
@[simp] theorem forwardRead_jr (t : HostTag) (l : Line) (g : DownTag) (s : State) :
    (forwardRead t l g s).jr = s.jr := by simp [forwardRead]
@[simp] theorem forwardRead_ip (t : HostTag) (l : Line) (g : DownTag) (s : State) :
    (forwardRead t l g s).ip = s.ip := by simp [forwardRead]
@[simp] theorem forwardRead_ss (t : HostTag) (l : Line) (g : DownTag) (s : State) :
    (forwardRead t l g s).ss = s.ss := by simp [forwardRead]
@[simp] theorem forwardRead_lht (t : HostTag) (l : Line) (g : DownTag) (s : State) :
    (forwardRead t l g s).lht = s.lht := by simp [forwardRead]
@[simp] theorem forwardRead_holds (t : HostTag) (l : Line) (g : DownTag) (s : State) :
    (forwardRead t l g s).holds = s.holds := by simp [forwardRead]
@[simp] theorem forwardRead_dp_link (t : HostTag) (l : Line) (g : DownTag) (s : State) :
    (forwardRead t l g s).dp.link = s.dp.link := by simp [forwardRead]
@[simp] theorem forwardRead_dp_quarantine (t : HostTag) (l : Line) (g : DownTag) (s : State) :
    (forwardRead t l g s).dp.quarantine = s.dp.quarantine := by simp [forwardRead]
@[simp] theorem forwardRead_dp_tagWait (t : HostTag) (l : Line) (g : DownTag) (s : State) :
    (forwardRead t l g s).dp.tagWait = s.dp.tagWait := by simp [forwardRead]
@[simp] theorem forwardRead_wu (t : HostTag) (l : Line) (g : DownTag) (s : State) :
    (forwardRead t l g s).wu = s.wu := by simp [forwardRead]
@[simp] theorem forwardRead_eq (t : HostTag) (l : Line) (g : DownTag) (s : State) :
    (forwardRead t l g s).eq = s.eq := by simp [forwardRead]
@[simp] theorem forwardRead_cfg (t : HostTag) (l : Line) (g : DownTag) (s : State) :
    (forwardRead t l g s).cfg = s.cfg := by simp [forwardRead]
@[simp] theorem forwardRead_mp (t : HostTag) (l : Line) (g : DownTag) (s : State) :
    (forwardRead t l g s).mp = s.mp := by simp [forwardRead]
@[simp] theorem forwardRead_upTx (t : HostTag) (l : Line) (g : DownTag) (s : State) :
    (forwardRead t l g s).upTx = s.upTx := by simp [forwardRead]

/-! ### forwardWrite -/

@[simp] theorem forwardWrite_pending (t : HostTag) (l : Line) (m : Mask) (d : Data) (g : DownTag) (s : State) :
    (forwardWrite t l m d g s).pending = s.pending := by simp [forwardWrite]
@[simp] theorem forwardWrite_now (t : HostTag) (l : Line) (m : Mask) (d : Data) (g : DownTag) (s : State) :
    (forwardWrite t l m d g s).now = s.now := by simp [forwardWrite]
@[simp] theorem forwardWrite_held (t : HostTag) (l : Line) (m : Mask) (d : Data) (g : DownTag) (s : State) :
    (forwardWrite t l m d g s).held = s.held := by simp [forwardWrite]
@[simp] theorem forwardWrite_pins (t : HostTag) (l : Line) (m : Mask) (d : Data) (g : DownTag) (s : State) :
    (forwardWrite t l m d g s).pins = s.pins := by simp [forwardWrite]
@[simp] theorem forwardWrite_upLink (t : HostTag) (l : Line) (m : Mask) (d : Data) (g : DownTag) (s : State) :
    (forwardWrite t l m d g s).upLink = s.upLink := by simp [forwardWrite]
@[simp] theorem forwardWrite_regions (t : HostTag) (l : Line) (m : Mask) (d : Data) (g : DownTag) (s : State) :
    (forwardWrite t l m d g s).regions = s.regions := by simp [forwardWrite]
@[simp] theorem forwardWrite_stamps (t : HostTag) (l : Line) (m : Mask) (d : Data) (g : DownTag) (s : State) :
    (forwardWrite t l m d g s).stamps = s.stamps := by simp [forwardWrite]
@[simp] theorem forwardWrite_ec (t : HostTag) (l : Line) (m : Mask) (d : Data) (g : DownTag) (s : State) :
    (forwardWrite t l m d g s).ec = s.ec := by simp [forwardWrite]
@[simp] theorem forwardWrite_jr (t : HostTag) (l : Line) (m : Mask) (d : Data) (g : DownTag) (s : State) :
    (forwardWrite t l m d g s).jr = s.jr := by simp [forwardWrite]
@[simp] theorem forwardWrite_ip (t : HostTag) (l : Line) (m : Mask) (d : Data) (g : DownTag) (s : State) :
    (forwardWrite t l m d g s).ip = s.ip := by simp [forwardWrite]
@[simp] theorem forwardWrite_ss (t : HostTag) (l : Line) (m : Mask) (d : Data) (g : DownTag) (s : State) :
    (forwardWrite t l m d g s).ss = s.ss := by simp [forwardWrite]
@[simp] theorem forwardWrite_lht (t : HostTag) (l : Line) (m : Mask) (d : Data) (g : DownTag) (s : State) :
    (forwardWrite t l m d g s).lht = s.lht := by simp [forwardWrite]
@[simp] theorem forwardWrite_dp_link (t : HostTag) (l : Line) (m : Mask) (d : Data) (g : DownTag) (s : State) :
    (forwardWrite t l m d g s).dp.link = s.dp.link := by simp [forwardWrite]
@[simp] theorem forwardWrite_dp_quarantine (t : HostTag) (l : Line) (m : Mask) (d : Data) (g : DownTag) (s : State) :
    (forwardWrite t l m d g s).dp.quarantine = s.dp.quarantine := by simp [forwardWrite]
@[simp] theorem forwardWrite_dp_tagWait (t : HostTag) (l : Line) (m : Mask) (d : Data) (g : DownTag) (s : State) :
    (forwardWrite t l m d g s).dp.tagWait = s.dp.tagWait := by simp [forwardWrite]
@[simp] theorem forwardWrite_wu (t : HostTag) (l : Line) (m : Mask) (d : Data) (g : DownTag) (s : State) :
    (forwardWrite t l m d g s).wu = s.wu := by simp [forwardWrite]
@[simp] theorem forwardWrite_eq (t : HostTag) (l : Line) (m : Mask) (d : Data) (g : DownTag) (s : State) :
    (forwardWrite t l m d g s).eq = s.eq := by simp [forwardWrite]
@[simp] theorem forwardWrite_cfg (t : HostTag) (l : Line) (m : Mask) (d : Data) (g : DownTag) (s : State) :
    (forwardWrite t l m d g s).cfg = s.cfg := by simp [forwardWrite]
@[simp] theorem forwardWrite_mp (t : HostTag) (l : Line) (m : Mask) (d : Data) (g : DownTag) (s : State) :
    (forwardWrite t l m d g s).mp = s.mp := by simp [forwardWrite]
@[simp] theorem forwardWrite_upTx (t : HostTag) (l : Line) (m : Mask) (d : Data) (g : DownTag) (s : State) :
    (forwardWrite t l m d g s).upTx = s.upTx := by simp [forwardWrite]

/-! ### testLowWater -/

@[simp] theorem testLowWater_pending (l : Option Line) (s : State) :
    (testLowWater l s).pending = s.pending := rfl
@[simp] theorem testLowWater_now (l : Option Line) (s : State) :
    (testLowWater l s).now = s.now := rfl
@[simp] theorem testLowWater_held (l : Option Line) (s : State) :
    (testLowWater l s).held = s.held := rfl
@[simp] theorem testLowWater_pins (l : Option Line) (s : State) :
    (testLowWater l s).pins = s.pins := rfl
@[simp] theorem testLowWater_upLink (l : Option Line) (s : State) :
    (testLowWater l s).upLink = s.upLink := rfl
@[simp] theorem testLowWater_regions (l : Option Line) (s : State) :
    (testLowWater l s).regions = s.regions := rfl
@[simp] theorem testLowWater_stamps (l : Option Line) (s : State) :
    (testLowWater l s).stamps = s.stamps := rfl
@[simp] theorem testLowWater_ec (l : Option Line) (s : State) :
    (testLowWater l s).ec = s.ec := rfl
@[simp] theorem testLowWater_jr_head (l : Option Line) (s : State) :
    (testLowWater l s).jr.head = s.jr.head := rfl
@[simp] theorem testLowWater_jr_tail (l : Option Line) (s : State) :
    (testLowWater l s).jr.tail = s.jr.tail := rfl
@[simp] theorem testLowWater_jr_full (l : Option Line) (s : State) :
    (testLowWater l s).jr.full = s.jr.full := rfl
@[simp] theorem testLowWater_jr_records (l : Option Line) (s : State) :
    (testLowWater l s).jr.records = s.jr.records := rfl
@[simp] theorem testLowWater_ip (l : Option Line) (s : State) :
    (testLowWater l s).ip = s.ip := rfl
@[simp] theorem testLowWater_ss (l : Option Line) (s : State) :
    (testLowWater l s).ss = s.ss := rfl
@[simp] theorem testLowWater_contexts (l : Option Line) (s : State) :
    (testLowWater l s).contexts = s.contexts := rfl
@[simp] theorem testLowWater_lht (l : Option Line) (s : State) :
    (testLowWater l s).lht = s.lht := rfl
@[simp] theorem testLowWater_holds (l : Option Line) (s : State) :
    (testLowWater l s).holds = s.holds := rfl
@[simp] theorem testLowWater_dp (l : Option Line) (s : State) :
    (testLowWater l s).dp = s.dp := rfl
@[simp] theorem testLowWater_wu (l : Option Line) (s : State) :
    (testLowWater l s).wu = s.wu := rfl
@[simp] theorem testLowWater_cfg (l : Option Line) (s : State) :
    (testLowWater l s).cfg = s.cfg := rfl
@[simp] theorem testLowWater_mp (l : Option Line) (s : State) :
    (testLowWater l s).mp = s.mp := rfl
@[simp] theorem testLowWater_upTx (l : Option Line) (s : State) :
    (testLowWater l s).upTx = s.upTx := rfl
@[simp] theorem testLowWater_downTx (l : Option Line) (s : State) :
    (testLowWater l s).downTx = s.downTx := rfl

/-! ### updateRecord -/

@[simp] theorem updateRecord_pending (x : Slot) (g : Record → Record) (s : State) :
    (updateRecord x g s).pending = s.pending := rfl
@[simp] theorem updateRecord_now (x : Slot) (g : Record → Record) (s : State) :
    (updateRecord x g s).now = s.now := rfl
@[simp] theorem updateRecord_held (x : Slot) (g : Record → Record) (s : State) :
    (updateRecord x g s).held = s.held := rfl
@[simp] theorem updateRecord_pins (x : Slot) (g : Record → Record) (s : State) :
    (updateRecord x g s).pins = s.pins := rfl
@[simp] theorem updateRecord_upLink (x : Slot) (g : Record → Record) (s : State) :
    (updateRecord x g s).upLink = s.upLink := rfl
@[simp] theorem updateRecord_regions (x : Slot) (g : Record → Record) (s : State) :
    (updateRecord x g s).regions = s.regions := rfl
@[simp] theorem updateRecord_stamps (x : Slot) (g : Record → Record) (s : State) :
    (updateRecord x g s).stamps = s.stamps := rfl
@[simp] theorem updateRecord_ec (x : Slot) (g : Record → Record) (s : State) :
    (updateRecord x g s).ec = s.ec := rfl
@[simp] theorem updateRecord_jr_head (x : Slot) (g : Record → Record) (s : State) :
    (updateRecord x g s).jr.head = s.jr.head := rfl
@[simp] theorem updateRecord_jr_tail (x : Slot) (g : Record → Record) (s : State) :
    (updateRecord x g s).jr.tail = s.jr.tail := rfl
@[simp] theorem updateRecord_jr_full (x : Slot) (g : Record → Record) (s : State) :
    (updateRecord x g s).jr.full = s.jr.full := rfl
@[simp] theorem updateRecord_jr_lowArmed (x : Slot) (g : Record → Record) (s : State) :
    (updateRecord x g s).jr.lowArmed = s.jr.lowArmed := rfl
@[simp] theorem updateRecord_ip (x : Slot) (g : Record → Record) (s : State) :
    (updateRecord x g s).ip = s.ip := rfl
@[simp] theorem updateRecord_ss (x : Slot) (g : Record → Record) (s : State) :
    (updateRecord x g s).ss = s.ss := rfl
@[simp] theorem updateRecord_contexts (x : Slot) (g : Record → Record) (s : State) :
    (updateRecord x g s).contexts = s.contexts := rfl
@[simp] theorem updateRecord_lht (x : Slot) (g : Record → Record) (s : State) :
    (updateRecord x g s).lht = s.lht := rfl
@[simp] theorem updateRecord_holds (x : Slot) (g : Record → Record) (s : State) :
    (updateRecord x g s).holds = s.holds := rfl
@[simp] theorem updateRecord_dp (x : Slot) (g : Record → Record) (s : State) :
    (updateRecord x g s).dp = s.dp := rfl
@[simp] theorem updateRecord_wu (x : Slot) (g : Record → Record) (s : State) :
    (updateRecord x g s).wu = s.wu := rfl
@[simp] theorem updateRecord_eq (x : Slot) (g : Record → Record) (s : State) :
    (updateRecord x g s).eq = s.eq := rfl
@[simp] theorem updateRecord_cfg (x : Slot) (g : Record → Record) (s : State) :
    (updateRecord x g s).cfg = s.cfg := rfl
@[simp] theorem updateRecord_mp (x : Slot) (g : Record → Record) (s : State) :
    (updateRecord x g s).mp = s.mp := rfl
@[simp] theorem updateRecord_upTx (x : Slot) (g : Record → Record) (s : State) :
    (updateRecord x g s).upTx = s.upTx := rfl
@[simp] theorem updateRecord_downTx (x : Slot) (g : Record → Record) (s : State) :
    (updateRecord x g s).downTx = s.downTx := rfl

/-! ### removeNewest -/

@[simp] theorem removeNewest_pending (w : Bool) (s : State) :
    (removeNewest w s).pending = s.pending := by simp [removeNewest]
@[simp] theorem removeNewest_now (w : Bool) (s : State) :
    (removeNewest w s).now = s.now := by simp [removeNewest]
@[simp] theorem removeNewest_held (w : Bool) (s : State) :
    (removeNewest w s).held = s.held := by simp [removeNewest]
@[simp] theorem removeNewest_pins (w : Bool) (s : State) :
    (removeNewest w s).pins = s.pins := by simp [removeNewest]
@[simp] theorem removeNewest_upLink (w : Bool) (s : State) :
    (removeNewest w s).upLink = s.upLink := by simp [removeNewest]
@[simp] theorem removeNewest_regions (w : Bool) (s : State) :
    (removeNewest w s).regions = s.regions := by simp [removeNewest]
@[simp] theorem removeNewest_stamps (w : Bool) (s : State) :
    (removeNewest w s).stamps = s.stamps := by simp [removeNewest]
@[simp] theorem removeNewest_ec_counter (w : Bool) (s : State) :
    (removeNewest w s).ec.counter = s.ec.counter := by simp [removeNewest, mapInnermost]
@[simp] theorem removeNewest_ec_closingOrigin (w : Bool) (s : State) :
    (removeNewest w s).ec.closingOrigin = s.ec.closingOrigin := by simp [removeNewest, mapInnermost]
@[simp] theorem removeNewest_ec_sequencer (w : Bool) (s : State) :
    (removeNewest w s).ec.sequencer = s.ec.sequencer := by simp [removeNewest, mapInnermost]
@[simp] theorem removeNewest_jr_tail (w : Bool) (s : State) :
    (removeNewest w s).jr.tail = s.jr.tail := by simp [removeNewest]
@[simp] theorem removeNewest_ip (w : Bool) (s : State) :
    (removeNewest w s).ip = s.ip := by simp [removeNewest]
@[simp] theorem removeNewest_ss (w : Bool) (s : State) :
    (removeNewest w s).ss = s.ss := by simp [removeNewest]
@[simp] theorem removeNewest_contexts (w : Bool) (s : State) :
    (removeNewest w s).contexts = s.contexts := by simp [removeNewest]
@[simp] theorem removeNewest_lht (w : Bool) (s : State) :
    (removeNewest w s).lht = s.lht := by simp [removeNewest]
@[simp] theorem removeNewest_holds (w : Bool) (s : State) :
    (removeNewest w s).holds = s.holds := by simp [removeNewest]
@[simp] theorem removeNewest_dp (w : Bool) (s : State) :
    (removeNewest w s).dp = s.dp := by simp [removeNewest]
@[simp] theorem removeNewest_wu (w : Bool) (s : State) :
    (removeNewest w s).wu = s.wu := by simp [removeNewest]
@[simp] theorem removeNewest_cfg (w : Bool) (s : State) :
    (removeNewest w s).cfg = s.cfg := by simp [removeNewest]
@[simp] theorem removeNewest_mp (w : Bool) (s : State) :
    (removeNewest w s).mp = s.mp := by simp [removeNewest]
@[simp] theorem removeNewest_upTx (w : Bool) (s : State) :
    (removeNewest w s).upTx = s.upTx := by simp [removeNewest]
@[simp] theorem removeNewest_downTx (w : Bool) (s : State) :
    (removeNewest w s).downTx = s.downTx := by simp [removeNewest]

/-! ### reserve -/

@[simp] theorem reserve_pending (t : HostTag) (l : Line) (k : Fin 8) (i : Ident) (q : BitVec 32) (g : DownTag) (s : State) :
    (reserve t l k i q g s).pending = s.pending := by simp [reserve]
@[simp] theorem reserve_now (t : HostTag) (l : Line) (k : Fin 8) (i : Ident) (q : BitVec 32) (g : DownTag) (s : State) :
    (reserve t l k i q g s).now = s.now := by simp [reserve]
@[simp] theorem reserve_held (t : HostTag) (l : Line) (k : Fin 8) (i : Ident) (q : BitVec 32) (g : DownTag) (s : State) :
    (reserve t l k i q g s).held = s.held := by simp [reserve]
@[simp] theorem reserve_pins (t : HostTag) (l : Line) (k : Fin 8) (i : Ident) (q : BitVec 32) (g : DownTag) (s : State) :
    (reserve t l k i q g s).pins = s.pins := by simp [reserve]
@[simp] theorem reserve_upLink (t : HostTag) (l : Line) (k : Fin 8) (i : Ident) (q : BitVec 32) (g : DownTag) (s : State) :
    (reserve t l k i q g s).upLink = s.upLink := by simp [reserve]
@[simp] theorem reserve_regions (t : HostTag) (l : Line) (k : Fin 8) (i : Ident) (q : BitVec 32) (g : DownTag) (s : State) :
    (reserve t l k i q g s).regions = s.regions := by simp [reserve]
@[simp] theorem reserve_ec_counter (t : HostTag) (l : Line) (k : Fin 8) (i : Ident) (q : BitVec 32) (g : DownTag) (s : State) :
    (reserve t l k i q g s).ec.counter = s.ec.counter := by simp [reserve, mapInnermost, appendRecord]
@[simp] theorem reserve_ec_closingOrigin (t : HostTag) (l : Line) (k : Fin 8) (i : Ident) (q : BitVec 32) (g : DownTag) (s : State) :
    (reserve t l k i q g s).ec.closingOrigin = s.ec.closingOrigin := by simp [reserve, mapInnermost, appendRecord]
@[simp] theorem reserve_ec_sequencer (t : HostTag) (l : Line) (k : Fin 8) (i : Ident) (q : BitVec 32) (g : DownTag) (s : State) :
    (reserve t l k i q g s).ec.sequencer = s.ec.sequencer := by simp [reserve, mapInnermost, appendRecord]
@[simp] theorem reserve_ec_removedSome (t : HostTag) (l : Line) (k : Fin 8) (i : Ident) (q : BitVec 32) (g : DownTag) (s : State) :
    (reserve t l k i q g s).ec.removedSome = s.ec.removedSome := by simp [reserve, mapInnermost, appendRecord]
@[simp] theorem reserve_jr_tail (t : HostTag) (l : Line) (k : Fin 8) (i : Ident) (q : BitVec 32) (g : DownTag) (s : State) :
    (reserve t l k i q g s).jr.tail = s.jr.tail := by simp [reserve, mapInnermost, appendRecord]
@[simp] theorem reserve_ip (t : HostTag) (l : Line) (k : Fin 8) (i : Ident) (q : BitVec 32) (g : DownTag) (s : State) :
    (reserve t l k i q g s).ip = s.ip := by simp [reserve]
@[simp] theorem reserve_ss (t : HostTag) (l : Line) (k : Fin 8) (i : Ident) (q : BitVec 32) (g : DownTag) (s : State) :
    (reserve t l k i q g s).ss = s.ss := by simp [reserve]
@[simp] theorem reserve_lht (t : HostTag) (l : Line) (k : Fin 8) (i : Ident) (q : BitVec 32) (g : DownTag) (s : State) :
    (reserve t l k i q g s).lht = s.lht := by simp [reserve]
@[simp] theorem reserve_dp_link (t : HostTag) (l : Line) (k : Fin 8) (i : Ident) (q : BitVec 32) (g : DownTag) (s : State) :
    (reserve t l k i q g s).dp.link = s.dp.link := by simp [reserve]
@[simp] theorem reserve_dp_quarantine (t : HostTag) (l : Line) (k : Fin 8) (i : Ident) (q : BitVec 32) (g : DownTag) (s : State) :
    (reserve t l k i q g s).dp.quarantine = s.dp.quarantine := by simp [reserve]
@[simp] theorem reserve_dp_tagWait (t : HostTag) (l : Line) (k : Fin 8) (i : Ident) (q : BitVec 32) (g : DownTag) (s : State) :
    (reserve t l k i q g s).dp.tagWait = s.dp.tagWait := by simp [reserve]
@[simp] theorem reserve_wu (t : HostTag) (l : Line) (k : Fin 8) (i : Ident) (q : BitVec 32) (g : DownTag) (s : State) :
    (reserve t l k i q g s).wu = s.wu := by simp [reserve]
@[simp] theorem reserve_cfg (t : HostTag) (l : Line) (k : Fin 8) (i : Ident) (q : BitVec 32) (g : DownTag) (s : State) :
    (reserve t l k i q g s).cfg = s.cfg := by simp [reserve]
@[simp] theorem reserve_mp (t : HostTag) (l : Line) (k : Fin 8) (i : Ident) (q : BitVec 32) (g : DownTag) (s : State) :
    (reserve t l k i q g s).mp = s.mp := by simp [reserve]
@[simp] theorem reserve_upTx (t : HostTag) (l : Line) (k : Fin 8) (i : Ident) (q : BitVec 32) (g : DownTag) (s : State) :
    (reserve t l k i q g s).upTx = s.upTx := by simp [reserve]

/-! ### holdRecord -/

@[simp] theorem holdRecord_pending (x : Slot) (d : Data) (s : State) :
    (holdRecord x d s).pending = s.pending := by simp [holdRecord]
@[simp] theorem holdRecord_now (x : Slot) (d : Data) (s : State) :
    (holdRecord x d s).now = s.now := by simp [holdRecord]
@[simp] theorem holdRecord_held (x : Slot) (d : Data) (s : State) :
    (holdRecord x d s).held = s.held := by simp [holdRecord]
@[simp] theorem holdRecord_pins (x : Slot) (d : Data) (s : State) :
    (holdRecord x d s).pins = s.pins := by simp [holdRecord]
@[simp] theorem holdRecord_upLink (x : Slot) (d : Data) (s : State) :
    (holdRecord x d s).upLink = s.upLink := by simp [holdRecord]
@[simp] theorem holdRecord_stamps (x : Slot) (d : Data) (s : State) :
    (holdRecord x d s).stamps = s.stamps := by simp [holdRecord]
@[simp] theorem holdRecord_ec (x : Slot) (d : Data) (s : State) :
    (holdRecord x d s).ec = s.ec := by simp [holdRecord]
@[simp] theorem holdRecord_jr_head (x : Slot) (d : Data) (s : State) :
    (holdRecord x d s).jr.head = s.jr.head := by simp [holdRecord]
@[simp] theorem holdRecord_jr_tail (x : Slot) (d : Data) (s : State) :
    (holdRecord x d s).jr.tail = s.jr.tail := by simp [holdRecord]
@[simp] theorem holdRecord_jr_full (x : Slot) (d : Data) (s : State) :
    (holdRecord x d s).jr.full = s.jr.full := by simp [holdRecord]
@[simp] theorem holdRecord_jr_lowArmed (x : Slot) (d : Data) (s : State) :
    (holdRecord x d s).jr.lowArmed = s.jr.lowArmed := by simp [holdRecord]
@[simp] theorem holdRecord_ip (x : Slot) (d : Data) (s : State) :
    (holdRecord x d s).ip = s.ip := by simp [holdRecord]
@[simp] theorem holdRecord_ss (x : Slot) (d : Data) (s : State) :
    (holdRecord x d s).ss = s.ss := by simp [holdRecord]
@[simp] theorem holdRecord_contexts (x : Slot) (d : Data) (s : State) :
    (holdRecord x d s).contexts = s.contexts := by simp [holdRecord]
@[simp] theorem holdRecord_lht (x : Slot) (d : Data) (s : State) :
    (holdRecord x d s).lht = s.lht := by simp [holdRecord]
@[simp] theorem holdRecord_holds (x : Slot) (d : Data) (s : State) :
    (holdRecord x d s).holds = s.holds := by simp [holdRecord]
@[simp] theorem holdRecord_dp (x : Slot) (d : Data) (s : State) :
    (holdRecord x d s).dp = s.dp := by simp [holdRecord]
@[simp] theorem holdRecord_wu (x : Slot) (d : Data) (s : State) :
    (holdRecord x d s).wu = s.wu := by simp [holdRecord]
@[simp] theorem holdRecord_eq (x : Slot) (d : Data) (s : State) :
    (holdRecord x d s).eq = s.eq := by simp [holdRecord]
@[simp] theorem holdRecord_cfg (x : Slot) (d : Data) (s : State) :
    (holdRecord x d s).cfg = s.cfg := by simp [holdRecord]
@[simp] theorem holdRecord_mp (x : Slot) (d : Data) (s : State) :
    (holdRecord x d s).mp = s.mp := by simp [holdRecord]
@[simp] theorem holdRecord_upTx (x : Slot) (d : Data) (s : State) :
    (holdRecord x d s).upTx = s.upTx := by simp [holdRecord]
@[simp] theorem holdRecord_downTx (x : Slot) (d : Data) (s : State) :
    (holdRecord x d s).downTx = s.downTx := by simp [holdRecord]

/-! ### failCapture -/

@[simp] theorem failCapture_pending (x : Slot) (l : Line) (i : Ident) (s : State) :
    (failCapture x l i s).pending = s.pending := by simp [failCapture]
@[simp] theorem failCapture_now (x : Slot) (l : Line) (i : Ident) (s : State) :
    (failCapture x l i s).now = s.now := by simp [failCapture]
@[simp] theorem failCapture_held (x : Slot) (l : Line) (i : Ident) (s : State) :
    (failCapture x l i s).held = s.held := by simp [failCapture]
@[simp] theorem failCapture_pins (x : Slot) (l : Line) (i : Ident) (s : State) :
    (failCapture x l i s).pins = s.pins := by simp [failCapture]
@[simp] theorem failCapture_upLink (x : Slot) (l : Line) (i : Ident) (s : State) :
    (failCapture x l i s).upLink = s.upLink := by simp [failCapture]
@[simp] theorem failCapture_regions (x : Slot) (l : Line) (i : Ident) (s : State) :
    (failCapture x l i s).regions = s.regions := by simp [failCapture]
@[simp] theorem failCapture_ec (x : Slot) (l : Line) (i : Ident) (s : State) :
    (failCapture x l i s).ec = s.ec := by simp [failCapture]
@[simp] theorem failCapture_jr_head (x : Slot) (l : Line) (i : Ident) (s : State) :
    (failCapture x l i s).jr.head = s.jr.head := by simp [failCapture]
@[simp] theorem failCapture_jr_tail (x : Slot) (l : Line) (i : Ident) (s : State) :
    (failCapture x l i s).jr.tail = s.jr.tail := by simp [failCapture]
@[simp] theorem failCapture_jr_full (x : Slot) (l : Line) (i : Ident) (s : State) :
    (failCapture x l i s).jr.full = s.jr.full := by simp [failCapture]
@[simp] theorem failCapture_jr_lowArmed (x : Slot) (l : Line) (i : Ident) (s : State) :
    (failCapture x l i s).jr.lowArmed = s.jr.lowArmed := by simp [failCapture]
@[simp] theorem failCapture_ip (x : Slot) (l : Line) (i : Ident) (s : State) :
    (failCapture x l i s).ip = s.ip := by simp [failCapture]
@[simp] theorem failCapture_ss (x : Slot) (l : Line) (i : Ident) (s : State) :
    (failCapture x l i s).ss = s.ss := by simp [failCapture]
@[simp] theorem failCapture_contexts (x : Slot) (l : Line) (i : Ident) (s : State) :
    (failCapture x l i s).contexts = s.contexts := by simp [failCapture]
@[simp] theorem failCapture_lht (x : Slot) (l : Line) (i : Ident) (s : State) :
    (failCapture x l i s).lht = s.lht := by simp [failCapture]
@[simp] theorem failCapture_holds (x : Slot) (l : Line) (i : Ident) (s : State) :
    (failCapture x l i s).holds = s.holds := by simp [failCapture]
@[simp] theorem failCapture_dp (x : Slot) (l : Line) (i : Ident) (s : State) :
    (failCapture x l i s).dp = s.dp := by simp [failCapture]
@[simp] theorem failCapture_wu (x : Slot) (l : Line) (i : Ident) (s : State) :
    (failCapture x l i s).wu = s.wu := by simp [failCapture]
@[simp] theorem failCapture_cfg (x : Slot) (l : Line) (i : Ident) (s : State) :
    (failCapture x l i s).cfg = s.cfg := by simp [failCapture]
@[simp] theorem failCapture_mp (x : Slot) (l : Line) (i : Ident) (s : State) :
    (failCapture x l i s).mp = s.mp := by simp [failCapture]
@[simp] theorem failCapture_upTx (x : Slot) (l : Line) (i : Ident) (s : State) :
    (failCapture x l i s).upTx = s.upTx := by simp [failCapture]
@[simp] theorem failCapture_downTx (x : Slot) (l : Line) (i : Ident) (s : State) :
    (failCapture x l i s).downTx = s.downTx := by simp [failCapture]

/-! ### retire -/

@[simp] theorem retire_pending (e : BitVec 16) (is : List Ident) (s : State) :
    (retire e is s).pending = s.pending := rfl
@[simp] theorem retire_now (e : BitVec 16) (is : List Ident) (s : State) :
    (retire e is s).now = s.now := rfl
@[simp] theorem retire_held (e : BitVec 16) (is : List Ident) (s : State) :
    (retire e is s).held = s.held := rfl
@[simp] theorem retire_pins (e : BitVec 16) (is : List Ident) (s : State) :
    (retire e is s).pins = s.pins := rfl
@[simp] theorem retire_upLink (e : BitVec 16) (is : List Ident) (s : State) :
    (retire e is s).upLink = s.upLink := rfl
@[simp] theorem retire_regions (e : BitVec 16) (is : List Ident) (s : State) :
    (retire e is s).regions = s.regions := rfl
@[simp] theorem retire_stamps (e : BitVec 16) (is : List Ident) (s : State) :
    (retire e is s).stamps = s.stamps := rfl
@[simp] theorem retire_ec (e : BitVec 16) (is : List Ident) (s : State) :
    (retire e is s).ec = s.ec := rfl
@[simp] theorem retire_jr (e : BitVec 16) (is : List Ident) (s : State) :
    (retire e is s).jr = s.jr := rfl
@[simp] theorem retire_ip_free (e : BitVec 16) (is : List Ident) (s : State) :
    (retire e is s).ip.free = s.ip.free := rfl
@[simp] theorem retire_contexts (e : BitVec 16) (is : List Ident) (s : State) :
    (retire e is s).contexts = s.contexts := rfl
@[simp] theorem retire_lht (e : BitVec 16) (is : List Ident) (s : State) :
    (retire e is s).lht = s.lht := rfl
@[simp] theorem retire_holds (e : BitVec 16) (is : List Ident) (s : State) :
    (retire e is s).holds = s.holds := rfl
@[simp] theorem retire_dp (e : BitVec 16) (is : List Ident) (s : State) :
    (retire e is s).dp = s.dp := rfl
@[simp] theorem retire_wu (e : BitVec 16) (is : List Ident) (s : State) :
    (retire e is s).wu = s.wu := rfl
@[simp] theorem retire_eq (e : BitVec 16) (is : List Ident) (s : State) :
    (retire e is s).eq = s.eq := rfl
@[simp] theorem retire_cfg (e : BitVec 16) (is : List Ident) (s : State) :
    (retire e is s).cfg = s.cfg := rfl
@[simp] theorem retire_mp (e : BitVec 16) (is : List Ident) (s : State) :
    (retire e is s).mp = s.mp := rfl
@[simp] theorem retire_upTx (e : BitVec 16) (is : List Ident) (s : State) :
    (retire e is s).upTx = s.upTx := rfl
@[simp] theorem retire_downTx (e : BitVec 16) (is : List Ident) (s : State) :
    (retire e is s).downTx = s.downTx := rfl

/-! ### visitStamp -/

@[simp] theorem visitStamp_pending (s : State) :
    (visitStamp s).pending = s.pending := rfl
@[simp] theorem visitStamp_now (s : State) :
    (visitStamp s).now = s.now := rfl
@[simp] theorem visitStamp_held (s : State) :
    (visitStamp s).held = s.held := rfl
@[simp] theorem visitStamp_pins (s : State) :
    (visitStamp s).pins = s.pins := rfl
@[simp] theorem visitStamp_upLink (s : State) :
    (visitStamp s).upLink = s.upLink := rfl
@[simp] theorem visitStamp_regions (s : State) :
    (visitStamp s).regions = s.regions := rfl
@[simp] theorem visitStamp_ec (s : State) :
    (visitStamp s).ec = s.ec := rfl
@[simp] theorem visitStamp_jr (s : State) :
    (visitStamp s).jr = s.jr := rfl
@[simp] theorem visitStamp_ip (s : State) :
    (visitStamp s).ip = s.ip := rfl
@[simp] theorem visitStamp_ss (s : State) :
    (visitStamp s).ss = s.ss := rfl
@[simp] theorem visitStamp_contexts (s : State) :
    (visitStamp s).contexts = s.contexts := rfl
@[simp] theorem visitStamp_lht (s : State) :
    (visitStamp s).lht = s.lht := rfl
@[simp] theorem visitStamp_holds (s : State) :
    (visitStamp s).holds = s.holds := rfl
@[simp] theorem visitStamp_dp (s : State) :
    (visitStamp s).dp = s.dp := rfl
@[simp] theorem visitStamp_wu (s : State) :
    (visitStamp s).wu = s.wu := rfl
@[simp] theorem visitStamp_eq (s : State) :
    (visitStamp s).eq = s.eq := rfl
@[simp] theorem visitStamp_cfg (s : State) :
    (visitStamp s).cfg = s.cfg := rfl
@[simp] theorem visitStamp_mp (s : State) :
    (visitStamp s).mp = s.mp := rfl
@[simp] theorem visitStamp_upTx (s : State) :
    (visitStamp s).upTx = s.upTx := rfl
@[simp] theorem visitStamp_downTx (s : State) :
    (visitStamp s).downTx = s.downTx := rfl

/-! ### clearKeptStamps -/

@[simp] theorem clearKeptStamps_pending (is : List Ident) (s : State) :
    (clearKeptStamps is s).pending = s.pending := rfl
@[simp] theorem clearKeptStamps_now (is : List Ident) (s : State) :
    (clearKeptStamps is s).now = s.now := rfl
@[simp] theorem clearKeptStamps_held (is : List Ident) (s : State) :
    (clearKeptStamps is s).held = s.held := rfl
@[simp] theorem clearKeptStamps_pins (is : List Ident) (s : State) :
    (clearKeptStamps is s).pins = s.pins := rfl
@[simp] theorem clearKeptStamps_upLink (is : List Ident) (s : State) :
    (clearKeptStamps is s).upLink = s.upLink := rfl
@[simp] theorem clearKeptStamps_regions (is : List Ident) (s : State) :
    (clearKeptStamps is s).regions = s.regions := rfl
@[simp] theorem clearKeptStamps_stamps (is : List Ident) (s : State) :
    (clearKeptStamps is s).stamps = s.stamps := rfl
@[simp] theorem clearKeptStamps_ec (is : List Ident) (s : State) :
    (clearKeptStamps is s).ec = s.ec := rfl
@[simp] theorem clearKeptStamps_jr (is : List Ident) (s : State) :
    (clearKeptStamps is s).jr = s.jr := rfl
@[simp] theorem clearKeptStamps_ip (is : List Ident) (s : State) :
    (clearKeptStamps is s).ip = s.ip := rfl
@[simp] theorem clearKeptStamps_ss (is : List Ident) (s : State) :
    (clearKeptStamps is s).ss = s.ss := rfl
@[simp] theorem clearKeptStamps_lht (is : List Ident) (s : State) :
    (clearKeptStamps is s).lht = s.lht := rfl
@[simp] theorem clearKeptStamps_holds (is : List Ident) (s : State) :
    (clearKeptStamps is s).holds = s.holds := rfl
@[simp] theorem clearKeptStamps_dp_link (is : List Ident) (s : State) :
    (clearKeptStamps is s).dp.link = s.dp.link := rfl
@[simp] theorem clearKeptStamps_dp_quarantine (is : List Ident) (s : State) :
    (clearKeptStamps is s).dp.quarantine = s.dp.quarantine := rfl
@[simp] theorem clearKeptStamps_dp_tagWait (is : List Ident) (s : State) :
    (clearKeptStamps is s).dp.tagWait = s.dp.tagWait := rfl
@[simp] theorem clearKeptStamps_wu (is : List Ident) (s : State) :
    (clearKeptStamps is s).wu = s.wu := rfl
@[simp] theorem clearKeptStamps_eq (is : List Ident) (s : State) :
    (clearKeptStamps is s).eq = s.eq := rfl
@[simp] theorem clearKeptStamps_cfg (is : List Ident) (s : State) :
    (clearKeptStamps is s).cfg = s.cfg := rfl
@[simp] theorem clearKeptStamps_mp (is : List Ident) (s : State) :
    (clearKeptStamps is s).mp = s.mp := rfl
@[simp] theorem clearKeptStamps_upTx (is : List Ident) (s : State) :
    (clearKeptStamps is s).upTx = s.upTx := rfl
@[simp] theorem clearKeptStamps_downTx (is : List Ident) (s : State) :
    (clearKeptStamps is s).downTx = s.downTx := rfl

/-! ### completePass -/

@[simp] theorem completePass_pending (s : State) :
    (completePass s).pending = s.pending := by simp [completePass]
@[simp] theorem completePass_now (s : State) :
    (completePass s).now = s.now := by simp [completePass]
@[simp] theorem completePass_held (s : State) :
    (completePass s).held = s.held := by simp [completePass]
@[simp] theorem completePass_pins (s : State) :
    (completePass s).pins = s.pins := by simp [completePass]
@[simp] theorem completePass_upLink (s : State) :
    (completePass s).upLink = s.upLink := by simp [completePass]
@[simp] theorem completePass_regions (s : State) :
    (completePass s).regions = s.regions := by simp [completePass]
@[simp] theorem completePass_stamps (s : State) :
    (completePass s).stamps = s.stamps := by simp [completePass]
@[simp] theorem completePass_ec (s : State) :
    (completePass s).ec = s.ec := by simp [completePass]
@[simp] theorem completePass_jr (s : State) :
    (completePass s).jr = s.jr := by simp [completePass]
@[simp] theorem completePass_lht (s : State) :
    (completePass s).lht = s.lht := by simp [completePass]
@[simp] theorem completePass_holds (s : State) :
    (completePass s).holds = s.holds := by simp [completePass]
@[simp] theorem completePass_dp_link (s : State) :
    (completePass s).dp.link = s.dp.link := by simp [completePass]
@[simp] theorem completePass_dp_quarantine (s : State) :
    (completePass s).dp.quarantine = s.dp.quarantine := by simp [completePass]
@[simp] theorem completePass_dp_tagWait (s : State) :
    (completePass s).dp.tagWait = s.dp.tagWait := by simp [completePass]
@[simp] theorem completePass_wu (s : State) :
    (completePass s).wu = s.wu := by simp [completePass]
@[simp] theorem completePass_eq (s : State) :
    (completePass s).eq = s.eq := by simp [completePass]
@[simp] theorem completePass_cfg (s : State) :
    (completePass s).cfg = s.cfg := by simp [completePass]
@[simp] theorem completePass_mp (s : State) :
    (completePass s).mp = s.mp := by simp [completePass]
@[simp] theorem completePass_upTx (s : State) :
    (completePass s).upTx = s.upTx := by simp [completePass]
@[simp] theorem completePass_downTx (s : State) :
    (completePass s).downTx = s.downTx := by simp [completePass]

/-! ### openEpoch -/

@[simp] theorem openEpoch_pending (o : Origin) (s : State) :
    (openEpoch o s).pending = s.pending := by unfold openEpoch; split <;> rfl
@[simp] theorem openEpoch_now (o : Origin) (s : State) :
    (openEpoch o s).now = s.now := by unfold openEpoch; split <;> rfl
@[simp] theorem openEpoch_held (o : Origin) (s : State) :
    (openEpoch o s).held = s.held := by unfold openEpoch; split <;> rfl
@[simp] theorem openEpoch_pins (o : Origin) (s : State) :
    (openEpoch o s).pins = s.pins := by unfold openEpoch; split <;> rfl
@[simp] theorem openEpoch_upLink (o : Origin) (s : State) :
    (openEpoch o s).upLink = s.upLink := by unfold openEpoch; split <;> rfl
@[simp] theorem openEpoch_regions (o : Origin) (s : State) :
    (openEpoch o s).regions = s.regions := by unfold openEpoch; split <;> rfl
@[simp] theorem openEpoch_stamps (o : Origin) (s : State) :
    (openEpoch o s).stamps = s.stamps := by unfold openEpoch; split <;> rfl
@[simp] theorem openEpoch_ec_closingOrigin (o : Origin) (s : State) :
    (openEpoch o s).ec.closingOrigin = s.ec.closingOrigin := by unfold openEpoch; split <;> rfl
@[simp] theorem openEpoch_ec_sequencer (o : Origin) (s : State) :
    (openEpoch o s).ec.sequencer = s.ec.sequencer := by unfold openEpoch; split <;> rfl
@[simp] theorem openEpoch_ec_removedSome (o : Origin) (s : State) :
    (openEpoch o s).ec.removedSome = s.ec.removedSome := by unfold openEpoch; split <;> rfl
@[simp] theorem openEpoch_jr (o : Origin) (s : State) :
    (openEpoch o s).jr = s.jr := by unfold openEpoch; split <;> rfl
@[simp] theorem openEpoch_ip_retiring (o : Origin) (s : State) :
    (openEpoch o s).ip.retiring = s.ip.retiring := by unfold openEpoch; split <;> rfl
@[simp] theorem openEpoch_ss (o : Origin) (s : State) :
    (openEpoch o s).ss = s.ss := by unfold openEpoch; split <;> rfl
@[simp] theorem openEpoch_contexts (o : Origin) (s : State) :
    (openEpoch o s).contexts = s.contexts := by unfold openEpoch; split <;> rfl
@[simp] theorem openEpoch_lht (o : Origin) (s : State) :
    (openEpoch o s).lht = s.lht := by unfold openEpoch; split <;> rfl
@[simp] theorem openEpoch_holds (o : Origin) (s : State) :
    (openEpoch o s).holds = s.holds := by unfold openEpoch; split <;> rfl
@[simp] theorem openEpoch_dp (o : Origin) (s : State) :
    (openEpoch o s).dp = s.dp := by unfold openEpoch; split <;> rfl
@[simp] theorem openEpoch_wu (o : Origin) (s : State) :
    (openEpoch o s).wu = s.wu := by unfold openEpoch; split <;> rfl
@[simp] theorem openEpoch_cfg (o : Origin) (s : State) :
    (openEpoch o s).cfg = s.cfg := by unfold openEpoch; split <;> rfl
@[simp] theorem openEpoch_mp (o : Origin) (s : State) :
    (openEpoch o s).mp = s.mp := by unfold openEpoch; split <;> rfl
@[simp] theorem openEpoch_upTx (o : Origin) (s : State) :
    (openEpoch o s).upTx = s.upTx := by unfold openEpoch; split <;> rfl
@[simp] theorem openEpoch_downTx (o : Origin) (s : State) :
    (openEpoch o s).downTx = s.downTx := by unfold openEpoch; split <;> rfl

/-! ### beginClosing -/

@[simp] theorem beginClosing_pending (op : EpochOp) (o : Origin) (s : State) :
    (beginClosing op o s).pending = s.pending := rfl
@[simp] theorem beginClosing_now (op : EpochOp) (o : Origin) (s : State) :
    (beginClosing op o s).now = s.now := rfl
@[simp] theorem beginClosing_held (op : EpochOp) (o : Origin) (s : State) :
    (beginClosing op o s).held = s.held := rfl
@[simp] theorem beginClosing_pins (op : EpochOp) (o : Origin) (s : State) :
    (beginClosing op o s).pins = s.pins := rfl
@[simp] theorem beginClosing_upLink (op : EpochOp) (o : Origin) (s : State) :
    (beginClosing op o s).upLink = s.upLink := rfl
@[simp] theorem beginClosing_regions (op : EpochOp) (o : Origin) (s : State) :
    (beginClosing op o s).regions = s.regions := rfl
@[simp] theorem beginClosing_stamps (op : EpochOp) (o : Origin) (s : State) :
    (beginClosing op o s).stamps = s.stamps := rfl
@[simp] theorem beginClosing_ec_counter (op : EpochOp) (o : Origin) (s : State) :
    (beginClosing op o s).ec.counter = s.ec.counter := rfl
@[simp] theorem beginClosing_ec_sequencer (op : EpochOp) (o : Origin) (s : State) :
    (beginClosing op o s).ec.sequencer = s.ec.sequencer := rfl
@[simp] theorem beginClosing_jr (op : EpochOp) (o : Origin) (s : State) :
    (beginClosing op o s).jr = s.jr := rfl
@[simp] theorem beginClosing_ip (op : EpochOp) (o : Origin) (s : State) :
    (beginClosing op o s).ip = s.ip := rfl
@[simp] theorem beginClosing_ss (op : EpochOp) (o : Origin) (s : State) :
    (beginClosing op o s).ss = s.ss := rfl
@[simp] theorem beginClosing_contexts (op : EpochOp) (o : Origin) (s : State) :
    (beginClosing op o s).contexts = s.contexts := rfl
@[simp] theorem beginClosing_lht (op : EpochOp) (o : Origin) (s : State) :
    (beginClosing op o s).lht = s.lht := rfl
@[simp] theorem beginClosing_holds (op : EpochOp) (o : Origin) (s : State) :
    (beginClosing op o s).holds = s.holds := rfl
@[simp] theorem beginClosing_dp (op : EpochOp) (o : Origin) (s : State) :
    (beginClosing op o s).dp = s.dp := rfl
@[simp] theorem beginClosing_wu (op : EpochOp) (o : Origin) (s : State) :
    (beginClosing op o s).wu = s.wu := rfl
@[simp] theorem beginClosing_eq (op : EpochOp) (o : Origin) (s : State) :
    (beginClosing op o s).eq = s.eq := rfl
@[simp] theorem beginClosing_cfg (op : EpochOp) (o : Origin) (s : State) :
    (beginClosing op o s).cfg = s.cfg := rfl
@[simp] theorem beginClosing_mp (op : EpochOp) (o : Origin) (s : State) :
    (beginClosing op o s).mp = s.mp := rfl
@[simp] theorem beginClosing_upTx (op : EpochOp) (o : Origin) (s : State) :
    (beginClosing op o s).upTx = s.upTx := rfl
@[simp] theorem beginClosing_downTx (op : EpochOp) (o : Origin) (s : State) :
    (beginClosing op o s).downTx = s.downTx := rfl

/-! ### popEpoch -/

@[simp] theorem popEpoch_pending (s : State) :
    (popEpoch s).pending = s.pending := rfl
@[simp] theorem popEpoch_now (s : State) :
    (popEpoch s).now = s.now := rfl
@[simp] theorem popEpoch_held (s : State) :
    (popEpoch s).held = s.held := rfl
@[simp] theorem popEpoch_pins (s : State) :
    (popEpoch s).pins = s.pins := rfl
@[simp] theorem popEpoch_upLink (s : State) :
    (popEpoch s).upLink = s.upLink := rfl
@[simp] theorem popEpoch_regions (s : State) :
    (popEpoch s).regions = s.regions := rfl
@[simp] theorem popEpoch_stamps (s : State) :
    (popEpoch s).stamps = s.stamps := rfl
@[simp] theorem popEpoch_ec_counter (s : State) :
    (popEpoch s).ec.counter = s.ec.counter := rfl
@[simp] theorem popEpoch_ec_sequencer (s : State) :
    (popEpoch s).ec.sequencer = s.ec.sequencer := rfl
@[simp] theorem popEpoch_ec_removedSome (s : State) :
    (popEpoch s).ec.removedSome = s.ec.removedSome := rfl
@[simp] theorem popEpoch_jr (s : State) :
    (popEpoch s).jr = s.jr := rfl
@[simp] theorem popEpoch_ip (s : State) :
    (popEpoch s).ip = s.ip := rfl
@[simp] theorem popEpoch_ss (s : State) :
    (popEpoch s).ss = s.ss := rfl
@[simp] theorem popEpoch_contexts (s : State) :
    (popEpoch s).contexts = s.contexts := rfl
@[simp] theorem popEpoch_lht (s : State) :
    (popEpoch s).lht = s.lht := rfl
@[simp] theorem popEpoch_holds (s : State) :
    (popEpoch s).holds = s.holds := rfl
@[simp] theorem popEpoch_dp (s : State) :
    (popEpoch s).dp = s.dp := rfl
@[simp] theorem popEpoch_wu (s : State) :
    (popEpoch s).wu = s.wu := rfl
@[simp] theorem popEpoch_eq (s : State) :
    (popEpoch s).eq = s.eq := rfl
@[simp] theorem popEpoch_cfg (s : State) :
    (popEpoch s).cfg = s.cfg := rfl
@[simp] theorem popEpoch_mp (s : State) :
    (popEpoch s).mp = s.mp := rfl
@[simp] theorem popEpoch_upTx (s : State) :
    (popEpoch s).upTx = s.upTx := rfl
@[simp] theorem popEpoch_downTx (s : State) :
    (popEpoch s).downTx = s.downTx := rfl

/-! ### commitOuter -/

@[simp] theorem commitOuter_pending (e : Epoch) (s : State) :
    (commitOuter e s).pending = s.pending := by simp [commitOuter]
@[simp] theorem commitOuter_now (e : Epoch) (s : State) :
    (commitOuter e s).now = s.now := by simp [commitOuter]
@[simp] theorem commitOuter_held (e : Epoch) (s : State) :
    (commitOuter e s).held = s.held := by simp [commitOuter]
@[simp] theorem commitOuter_pins (e : Epoch) (s : State) :
    (commitOuter e s).pins = s.pins := by simp [commitOuter]
@[simp] theorem commitOuter_upLink (e : Epoch) (s : State) :
    (commitOuter e s).upLink = s.upLink := by simp [commitOuter]
@[simp] theorem commitOuter_regions (e : Epoch) (s : State) :
    (commitOuter e s).regions = s.regions := by simp [commitOuter]
@[simp] theorem commitOuter_stamps (e : Epoch) (s : State) :
    (commitOuter e s).stamps = s.stamps := by simp [commitOuter]
@[simp] theorem commitOuter_ec_counter (e : Epoch) (s : State) :
    (commitOuter e s).ec.counter = s.ec.counter := by simp [commitOuter]
@[simp] theorem commitOuter_ec_sequencer (e : Epoch) (s : State) :
    (commitOuter e s).ec.sequencer = s.ec.sequencer := by simp [commitOuter]
@[simp] theorem commitOuter_ec_removedSome (e : Epoch) (s : State) :
    (commitOuter e s).ec.removedSome = s.ec.removedSome := by simp [commitOuter]
@[simp] theorem commitOuter_jr_head (e : Epoch) (s : State) :
    (commitOuter e s).jr.head = s.jr.head := by simp [commitOuter, releaseTail]
@[simp] theorem commitOuter_ip_free (e : Epoch) (s : State) :
    (commitOuter e s).ip.free = s.ip.free := by simp [commitOuter]
@[simp] theorem commitOuter_contexts (e : Epoch) (s : State) :
    (commitOuter e s).contexts = s.contexts := by simp [commitOuter]
@[simp] theorem commitOuter_lht (e : Epoch) (s : State) :
    (commitOuter e s).lht = s.lht := by simp [commitOuter]
@[simp] theorem commitOuter_holds (e : Epoch) (s : State) :
    (commitOuter e s).holds = s.holds := by simp [commitOuter]
@[simp] theorem commitOuter_dp (e : Epoch) (s : State) :
    (commitOuter e s).dp = s.dp := by simp [commitOuter]
@[simp] theorem commitOuter_wu (e : Epoch) (s : State) :
    (commitOuter e s).wu = s.wu := by simp [commitOuter]
@[simp] theorem commitOuter_cfg (e : Epoch) (s : State) :
    (commitOuter e s).cfg = s.cfg := by simp [commitOuter]
@[simp] theorem commitOuter_mp (e : Epoch) (s : State) :
    (commitOuter e s).mp = s.mp := by simp [commitOuter]
@[simp] theorem commitOuter_upTx (e : Epoch) (s : State) :
    (commitOuter e s).upTx = s.upTx := by simp [commitOuter]
@[simp] theorem commitOuter_downTx (e : Epoch) (s : State) :
    (commitOuter e s).downTx = s.downTx := by simp [commitOuter]

/-! ### commitMerge -/

@[simp] theorem commitMerge_pending (e p : Epoch) (s : State) :
    (commitMerge e p s).pending = s.pending := by simp [commitMerge]
@[simp] theorem commitMerge_now (e p : Epoch) (s : State) :
    (commitMerge e p s).now = s.now := by simp [commitMerge]
@[simp] theorem commitMerge_held (e p : Epoch) (s : State) :
    (commitMerge e p s).held = s.held := by simp [commitMerge]
@[simp] theorem commitMerge_pins (e p : Epoch) (s : State) :
    (commitMerge e p s).pins = s.pins := by simp [commitMerge]
@[simp] theorem commitMerge_upLink (e p : Epoch) (s : State) :
    (commitMerge e p s).upLink = s.upLink := by simp [commitMerge]
@[simp] theorem commitMerge_regions (e p : Epoch) (s : State) :
    (commitMerge e p s).regions = s.regions := by simp [commitMerge]
@[simp] theorem commitMerge_stamps (e p : Epoch) (s : State) :
    (commitMerge e p s).stamps = s.stamps := by simp [commitMerge]
@[simp] theorem commitMerge_ec_counter (e p : Epoch) (s : State) :
    (commitMerge e p s).ec.counter = s.ec.counter := by simp [commitMerge, mapInnermost]
@[simp] theorem commitMerge_ec_sequencer (e p : Epoch) (s : State) :
    (commitMerge e p s).ec.sequencer = s.ec.sequencer := by simp [commitMerge, mapInnermost]
@[simp] theorem commitMerge_ec_removedSome (e p : Epoch) (s : State) :
    (commitMerge e p s).ec.removedSome = s.ec.removedSome := by simp [commitMerge, mapInnermost]
@[simp] theorem commitMerge_jr (e p : Epoch) (s : State) :
    (commitMerge e p s).jr = s.jr := by simp [commitMerge]
@[simp] theorem commitMerge_ip_free (e p : Epoch) (s : State) :
    (commitMerge e p s).ip.free = s.ip.free := by simp [commitMerge]
@[simp] theorem commitMerge_contexts (e p : Epoch) (s : State) :
    (commitMerge e p s).contexts = s.contexts := by simp [commitMerge]
@[simp] theorem commitMerge_lht (e p : Epoch) (s : State) :
    (commitMerge e p s).lht = s.lht := by simp [commitMerge]
@[simp] theorem commitMerge_holds (e p : Epoch) (s : State) :
    (commitMerge e p s).holds = s.holds := by simp [commitMerge]
@[simp] theorem commitMerge_dp (e p : Epoch) (s : State) :
    (commitMerge e p s).dp = s.dp := by simp [commitMerge]
@[simp] theorem commitMerge_wu (e p : Epoch) (s : State) :
    (commitMerge e p s).wu = s.wu := by simp [commitMerge]
@[simp] theorem commitMerge_cfg (e p : Epoch) (s : State) :
    (commitMerge e p s).cfg = s.cfg := by simp [commitMerge]
@[simp] theorem commitMerge_mp (e p : Epoch) (s : State) :
    (commitMerge e p s).mp = s.mp := by simp [commitMerge]
@[simp] theorem commitMerge_upTx (e p : Epoch) (s : State) :
    (commitMerge e p s).upTx = s.upTx := by simp [commitMerge]
@[simp] theorem commitMerge_downTx (e p : Epoch) (s : State) :
    (commitMerge e p s).downTx = s.downTx := by simp [commitMerge]

/-! ### abandonInnermost -/

@[simp] theorem abandonInnermost_pending (x : BitVec 16) (s : State) :
    (abandonInnermost x s).pending = s.pending := by unfold abandonInnermost; split <;> rfl
@[simp] theorem abandonInnermost_now (x : BitVec 16) (s : State) :
    (abandonInnermost x s).now = s.now := by unfold abandonInnermost; split <;> rfl
@[simp] theorem abandonInnermost_held (x : BitVec 16) (s : State) :
    (abandonInnermost x s).held = s.held := by unfold abandonInnermost; split <;> rfl
@[simp] theorem abandonInnermost_pins (x : BitVec 16) (s : State) :
    (abandonInnermost x s).pins = s.pins := by unfold abandonInnermost; split <;> rfl
@[simp] theorem abandonInnermost_upLink (x : BitVec 16) (s : State) :
    (abandonInnermost x s).upLink = s.upLink := by unfold abandonInnermost; split <;> rfl
@[simp] theorem abandonInnermost_regions (x : BitVec 16) (s : State) :
    (abandonInnermost x s).regions = s.regions := by unfold abandonInnermost; split <;> rfl
@[simp] theorem abandonInnermost_stamps (x : BitVec 16) (s : State) :
    (abandonInnermost x s).stamps = s.stamps := by unfold abandonInnermost; split <;> rfl
@[simp] theorem abandonInnermost_ec_counter (x : BitVec 16) (s : State) :
    (abandonInnermost x s).ec.counter = s.ec.counter := by unfold abandonInnermost; split <;> rfl
@[simp] theorem abandonInnermost_ec_sequencer (x : BitVec 16) (s : State) :
    (abandonInnermost x s).ec.sequencer = s.ec.sequencer := by unfold abandonInnermost; split <;> rfl
@[simp] theorem abandonInnermost_ec_removedSome (x : BitVec 16) (s : State) :
    (abandonInnermost x s).ec.removedSome = s.ec.removedSome := by unfold abandonInnermost; split <;> rfl
@[simp] theorem abandonInnermost_ip_free (x : BitVec 16) (s : State) :
    (abandonInnermost x s).ip.free = s.ip.free := by unfold abandonInnermost; split <;> rfl
@[simp] theorem abandonInnermost_contexts (x : BitVec 16) (s : State) :
    (abandonInnermost x s).contexts = s.contexts := by unfold abandonInnermost; split <;> rfl
@[simp] theorem abandonInnermost_lht (x : BitVec 16) (s : State) :
    (abandonInnermost x s).lht = s.lht := by unfold abandonInnermost; split <;> rfl
@[simp] theorem abandonInnermost_holds (x : BitVec 16) (s : State) :
    (abandonInnermost x s).holds = s.holds := by unfold abandonInnermost; split <;> rfl
@[simp] theorem abandonInnermost_dp (x : BitVec 16) (s : State) :
    (abandonInnermost x s).dp = s.dp := by unfold abandonInnermost; split <;> rfl
@[simp] theorem abandonInnermost_wu (x : BitVec 16) (s : State) :
    (abandonInnermost x s).wu = s.wu := by unfold abandonInnermost; split <;> rfl
@[simp] theorem abandonInnermost_cfg (x : BitVec 16) (s : State) :
    (abandonInnermost x s).cfg = s.cfg := by unfold abandonInnermost; split <;> rfl
@[simp] theorem abandonInnermost_mp (x : BitVec 16) (s : State) :
    (abandonInnermost x s).mp = s.mp := by unfold abandonInnermost; split <;> rfl
@[simp] theorem abandonInnermost_upTx (x : BitVec 16) (s : State) :
    (abandonInnermost x s).upTx = s.upTx := by unfold abandonInnermost; split <;> rfl
@[simp] theorem abandonInnermost_downTx (x : BitVec 16) (s : State) :
    (abandonInnermost x s).downTx = s.downTx := by unfold abandonInnermost; split <;> rfl

/-! ### refuseRollback -/

@[simp] theorem refuseRollback_pending (e : Epoch) (s : State) :
    (refuseRollback e s).pending = s.pending := rfl
@[simp] theorem refuseRollback_now (e : Epoch) (s : State) :
    (refuseRollback e s).now = s.now := rfl
@[simp] theorem refuseRollback_held (e : Epoch) (s : State) :
    (refuseRollback e s).held = s.held := rfl
@[simp] theorem refuseRollback_pins (e : Epoch) (s : State) :
    (refuseRollback e s).pins = s.pins := rfl
@[simp] theorem refuseRollback_upLink (e : Epoch) (s : State) :
    (refuseRollback e s).upLink = s.upLink := rfl
@[simp] theorem refuseRollback_regions (e : Epoch) (s : State) :
    (refuseRollback e s).regions = s.regions := rfl
@[simp] theorem refuseRollback_stamps (e : Epoch) (s : State) :
    (refuseRollback e s).stamps = s.stamps := rfl
@[simp] theorem refuseRollback_ec_counter (e : Epoch) (s : State) :
    (refuseRollback e s).ec.counter = s.ec.counter := rfl
@[simp] theorem refuseRollback_ec_sequencer (e : Epoch) (s : State) :
    (refuseRollback e s).ec.sequencer = s.ec.sequencer := rfl
@[simp] theorem refuseRollback_ec_removedSome (e : Epoch) (s : State) :
    (refuseRollback e s).ec.removedSome = s.ec.removedSome := rfl
@[simp] theorem refuseRollback_jr (e : Epoch) (s : State) :
    (refuseRollback e s).jr = s.jr := rfl
@[simp] theorem refuseRollback_ip (e : Epoch) (s : State) :
    (refuseRollback e s).ip = s.ip := rfl
@[simp] theorem refuseRollback_ss (e : Epoch) (s : State) :
    (refuseRollback e s).ss = s.ss := rfl
@[simp] theorem refuseRollback_contexts (e : Epoch) (s : State) :
    (refuseRollback e s).contexts = s.contexts := rfl
@[simp] theorem refuseRollback_lht (e : Epoch) (s : State) :
    (refuseRollback e s).lht = s.lht := rfl
@[simp] theorem refuseRollback_holds (e : Epoch) (s : State) :
    (refuseRollback e s).holds = s.holds := rfl
@[simp] theorem refuseRollback_dp (e : Epoch) (s : State) :
    (refuseRollback e s).dp = s.dp := rfl
@[simp] theorem refuseRollback_wu (e : Epoch) (s : State) :
    (refuseRollback e s).wu = s.wu := rfl
@[simp] theorem refuseRollback_cfg (e : Epoch) (s : State) :
    (refuseRollback e s).cfg = s.cfg := rfl
@[simp] theorem refuseRollback_mp (e : Epoch) (s : State) :
    (refuseRollback e s).mp = s.mp := rfl
@[simp] theorem refuseRollback_upTx (e : Epoch) (s : State) :
    (refuseRollback e s).upTx = s.upTx := rfl
@[simp] theorem refuseRollback_downTx (e : Epoch) (s : State) :
    (refuseRollback e s).downTx = s.downTx := rfl

/-! ### startRestore -/

@[simp] theorem startRestore_pending (s : State) :
    (startRestore s).pending = s.pending := rfl
@[simp] theorem startRestore_now (s : State) :
    (startRestore s).now = s.now := rfl
@[simp] theorem startRestore_held (s : State) :
    (startRestore s).held = s.held := rfl
@[simp] theorem startRestore_pins (s : State) :
    (startRestore s).pins = s.pins := rfl
@[simp] theorem startRestore_upLink (s : State) :
    (startRestore s).upLink = s.upLink := rfl
@[simp] theorem startRestore_regions (s : State) :
    (startRestore s).regions = s.regions := rfl
@[simp] theorem startRestore_stamps (s : State) :
    (startRestore s).stamps = s.stamps := rfl
@[simp] theorem startRestore_ec_counter (s : State) :
    (startRestore s).ec.counter = s.ec.counter := rfl
@[simp] theorem startRestore_ec_sequencer (s : State) :
    (startRestore s).ec.sequencer = s.ec.sequencer := rfl
@[simp] theorem startRestore_ec_removedSome (s : State) :
    (startRestore s).ec.removedSome = s.ec.removedSome := rfl
@[simp] theorem startRestore_jr (s : State) :
    (startRestore s).jr = s.jr := rfl
@[simp] theorem startRestore_ip (s : State) :
    (startRestore s).ip = s.ip := rfl
@[simp] theorem startRestore_ss (s : State) :
    (startRestore s).ss = s.ss := rfl
@[simp] theorem startRestore_contexts (s : State) :
    (startRestore s).contexts = s.contexts := rfl
@[simp] theorem startRestore_lht (s : State) :
    (startRestore s).lht = s.lht := rfl
@[simp] theorem startRestore_holds (s : State) :
    (startRestore s).holds = s.holds := rfl
@[simp] theorem startRestore_dp (s : State) :
    (startRestore s).dp = s.dp := rfl
@[simp] theorem startRestore_wu (s : State) :
    (startRestore s).wu = s.wu := rfl
@[simp] theorem startRestore_eq (s : State) :
    (startRestore s).eq = s.eq := rfl
@[simp] theorem startRestore_cfg (s : State) :
    (startRestore s).cfg = s.cfg := rfl
@[simp] theorem startRestore_mp (s : State) :
    (startRestore s).mp = s.mp := rfl
@[simp] theorem startRestore_upTx (s : State) :
    (startRestore s).upTx = s.upTx := rfl
@[simp] theorem startRestore_downTx (s : State) :
    (startRestore s).downTx = s.downTx := rfl

/-! ### endRollback -/

@[simp] theorem endRollback_pending (e : Epoch) (s : State) :
    (endRollback e s).pending = s.pending := by simp [endRollback]
@[simp] theorem endRollback_now (e : Epoch) (s : State) :
    (endRollback e s).now = s.now := by simp [endRollback]
@[simp] theorem endRollback_held (e : Epoch) (s : State) :
    (endRollback e s).held = s.held := by simp [endRollback]
@[simp] theorem endRollback_pins (e : Epoch) (s : State) :
    (endRollback e s).pins = s.pins := by simp [endRollback]
@[simp] theorem endRollback_upLink (e : Epoch) (s : State) :
    (endRollback e s).upLink = s.upLink := by simp [endRollback]
@[simp] theorem endRollback_regions (e : Epoch) (s : State) :
    (endRollback e s).regions = s.regions := by simp [endRollback]
@[simp] theorem endRollback_stamps (e : Epoch) (s : State) :
    (endRollback e s).stamps = s.stamps := by simp [endRollback]
@[simp] theorem endRollback_ec_counter (e : Epoch) (s : State) :
    (endRollback e s).ec.counter = s.ec.counter := by simp [endRollback]
@[simp] theorem endRollback_ec_removedSome (e : Epoch) (s : State) :
    (endRollback e s).ec.removedSome = s.ec.removedSome := by simp [endRollback]
@[simp] theorem endRollback_jr (e : Epoch) (s : State) :
    (endRollback e s).jr = s.jr := by simp [endRollback]
@[simp] theorem endRollback_ip_free (e : Epoch) (s : State) :
    (endRollback e s).ip.free = s.ip.free := by simp [endRollback]
@[simp] theorem endRollback_contexts (e : Epoch) (s : State) :
    (endRollback e s).contexts = s.contexts := by simp [endRollback]
@[simp] theorem endRollback_lht (e : Epoch) (s : State) :
    (endRollback e s).lht = s.lht := by simp [endRollback]
@[simp] theorem endRollback_holds (e : Epoch) (s : State) :
    (endRollback e s).holds = s.holds := by simp [endRollback]
@[simp] theorem endRollback_dp (e : Epoch) (s : State) :
    (endRollback e s).dp = s.dp := by simp [endRollback]
@[simp] theorem endRollback_wu (e : Epoch) (s : State) :
    (endRollback e s).wu = s.wu := by simp [endRollback]
@[simp] theorem endRollback_cfg (e : Epoch) (s : State) :
    (endRollback e s).cfg = s.cfg := by simp [endRollback]
@[simp] theorem endRollback_mp (e : Epoch) (s : State) :
    (endRollback e s).mp = s.mp := by simp [endRollback]
@[simp] theorem endRollback_upTx (e : Epoch) (s : State) :
    (endRollback e s).upTx = s.upTx := by simp [endRollback]
@[simp] theorem endRollback_downTx (e : Epoch) (s : State) :
    (endRollback e s).downTx = s.downTx := by simp [endRollback]

/-! ### breakAll -/

@[simp] theorem breakAll_pending (s : State) :
    (breakAll s).pending = s.pending := rfl
@[simp] theorem breakAll_now (s : State) :
    (breakAll s).now = s.now := rfl
@[simp] theorem breakAll_held (s : State) :
    (breakAll s).held = s.held := rfl
@[simp] theorem breakAll_pins (s : State) :
    (breakAll s).pins = s.pins := rfl
@[simp] theorem breakAll_upLink (s : State) :
    (breakAll s).upLink = s.upLink := rfl
@[simp] theorem breakAll_regions (s : State) :
    (breakAll s).regions = s.regions := rfl
@[simp] theorem breakAll_stamps (s : State) :
    (breakAll s).stamps = s.stamps := rfl
@[simp] theorem breakAll_ec_counter (s : State) :
    (breakAll s).ec.counter = s.ec.counter := rfl
@[simp] theorem breakAll_ec_closingOrigin (s : State) :
    (breakAll s).ec.closingOrigin = s.ec.closingOrigin := rfl
@[simp] theorem breakAll_ec_sequencer (s : State) :
    (breakAll s).ec.sequencer = s.ec.sequencer := rfl
@[simp] theorem breakAll_ec_removedSome (s : State) :
    (breakAll s).ec.removedSome = s.ec.removedSome := rfl
@[simp] theorem breakAll_jr (s : State) :
    (breakAll s).jr = s.jr := rfl
@[simp] theorem breakAll_ip (s : State) :
    (breakAll s).ip = s.ip := rfl
@[simp] theorem breakAll_ss (s : State) :
    (breakAll s).ss = s.ss := rfl
@[simp] theorem breakAll_contexts (s : State) :
    (breakAll s).contexts = s.contexts := rfl
@[simp] theorem breakAll_lht (s : State) :
    (breakAll s).lht = s.lht := rfl
@[simp] theorem breakAll_holds (s : State) :
    (breakAll s).holds = s.holds := rfl
@[simp] theorem breakAll_dp (s : State) :
    (breakAll s).dp = s.dp := rfl
@[simp] theorem breakAll_wu (s : State) :
    (breakAll s).wu = s.wu := rfl
@[simp] theorem breakAll_eq (s : State) :
    (breakAll s).eq = s.eq := rfl
@[simp] theorem breakAll_cfg (s : State) :
    (breakAll s).cfg = s.cfg := rfl
@[simp] theorem breakAll_mp (s : State) :
    (breakAll s).mp = s.mp := rfl
@[simp] theorem breakAll_upTx (s : State) :
    (breakAll s).upTx = s.upTx := rfl
@[simp] theorem breakAll_downTx (s : State) :
    (breakAll s).downTx = s.downTx := rfl

/-! ### placeRestore -/

@[simp] theorem placeRestore_pending (x : Slot) (l : Line) (s : State) :
    (placeRestore x l s).pending = s.pending := rfl
@[simp] theorem placeRestore_now (x : Slot) (l : Line) (s : State) :
    (placeRestore x l s).now = s.now := rfl
@[simp] theorem placeRestore_held (x : Slot) (l : Line) (s : State) :
    (placeRestore x l s).held = s.held := rfl
@[simp] theorem placeRestore_pins (x : Slot) (l : Line) (s : State) :
    (placeRestore x l s).pins = s.pins := rfl
@[simp] theorem placeRestore_upLink (x : Slot) (l : Line) (s : State) :
    (placeRestore x l s).upLink = s.upLink := rfl
@[simp] theorem placeRestore_regions (x : Slot) (l : Line) (s : State) :
    (placeRestore x l s).regions = s.regions := rfl
@[simp] theorem placeRestore_stamps (x : Slot) (l : Line) (s : State) :
    (placeRestore x l s).stamps = s.stamps := rfl
@[simp] theorem placeRestore_ec_stack (x : Slot) (l : Line) (s : State) :
    (placeRestore x l s).ec.stack = s.ec.stack := rfl
@[simp] theorem placeRestore_ec_counter (x : Slot) (l : Line) (s : State) :
    (placeRestore x l s).ec.counter = s.ec.counter := rfl
@[simp] theorem placeRestore_ec_closingOrigin (x : Slot) (l : Line) (s : State) :
    (placeRestore x l s).ec.closingOrigin = s.ec.closingOrigin := rfl
@[simp] theorem placeRestore_ec_removedSome (x : Slot) (l : Line) (s : State) :
    (placeRestore x l s).ec.removedSome = s.ec.removedSome := rfl
@[simp] theorem placeRestore_jr (x : Slot) (l : Line) (s : State) :
    (placeRestore x l s).jr = s.jr := rfl
@[simp] theorem placeRestore_ip (x : Slot) (l : Line) (s : State) :
    (placeRestore x l s).ip = s.ip := rfl
@[simp] theorem placeRestore_ss (x : Slot) (l : Line) (s : State) :
    (placeRestore x l s).ss = s.ss := rfl
@[simp] theorem placeRestore_contexts (x : Slot) (l : Line) (s : State) :
    (placeRestore x l s).contexts = s.contexts := rfl
@[simp] theorem placeRestore_holds (x : Slot) (l : Line) (s : State) :
    (placeRestore x l s).holds = s.holds := rfl
@[simp] theorem placeRestore_dp_link (x : Slot) (l : Line) (s : State) :
    (placeRestore x l s).dp.link = s.dp.link := rfl
@[simp] theorem placeRestore_dp_tracker (x : Slot) (l : Line) (s : State) :
    (placeRestore x l s).dp.tracker = s.dp.tracker := rfl
@[simp] theorem placeRestore_dp_quarantine (x : Slot) (l : Line) (s : State) :
    (placeRestore x l s).dp.quarantine = s.dp.quarantine := rfl
@[simp] theorem placeRestore_wu (x : Slot) (l : Line) (s : State) :
    (placeRestore x l s).wu = s.wu := rfl
@[simp] theorem placeRestore_eq (x : Slot) (l : Line) (s : State) :
    (placeRestore x l s).eq = s.eq := rfl
@[simp] theorem placeRestore_cfg (x : Slot) (l : Line) (s : State) :
    (placeRestore x l s).cfg = s.cfg := rfl
@[simp] theorem placeRestore_mp (x : Slot) (l : Line) (s : State) :
    (placeRestore x l s).mp = s.mp := rfl
@[simp] theorem placeRestore_upTx (x : Slot) (l : Line) (s : State) :
    (placeRestore x l s).upTx = s.upTx := rfl
@[simp] theorem placeRestore_downTx (x : Slot) (l : Line) (s : State) :
    (placeRestore x l s).downTx = s.downTx := rfl

/-! ### issueRestore -/

@[simp] theorem issueRestore_pending (x : Slot) (l : Line) (d : Data) (g : DownTag) (s : State) :
    (issueRestore x l d g s).pending = s.pending := by simp [issueRestore]
@[simp] theorem issueRestore_now (x : Slot) (l : Line) (d : Data) (g : DownTag) (s : State) :
    (issueRestore x l d g s).now = s.now := by simp [issueRestore]
@[simp] theorem issueRestore_held (x : Slot) (l : Line) (d : Data) (g : DownTag) (s : State) :
    (issueRestore x l d g s).held = s.held := by simp [issueRestore]
@[simp] theorem issueRestore_pins (x : Slot) (l : Line) (d : Data) (g : DownTag) (s : State) :
    (issueRestore x l d g s).pins = s.pins := by simp [issueRestore]
@[simp] theorem issueRestore_upLink (x : Slot) (l : Line) (d : Data) (g : DownTag) (s : State) :
    (issueRestore x l d g s).upLink = s.upLink := by simp [issueRestore]
@[simp] theorem issueRestore_regions (x : Slot) (l : Line) (d : Data) (g : DownTag) (s : State) :
    (issueRestore x l d g s).regions = s.regions := by simp [issueRestore]
@[simp] theorem issueRestore_stamps (x : Slot) (l : Line) (d : Data) (g : DownTag) (s : State) :
    (issueRestore x l d g s).stamps = s.stamps := by simp [issueRestore]
@[simp] theorem issueRestore_ec_stack (x : Slot) (l : Line) (d : Data) (g : DownTag) (s : State) :
    (issueRestore x l d g s).ec.stack = s.ec.stack := by simp [issueRestore]
@[simp] theorem issueRestore_ec_counter (x : Slot) (l : Line) (d : Data) (g : DownTag) (s : State) :
    (issueRestore x l d g s).ec.counter = s.ec.counter := by simp [issueRestore]
@[simp] theorem issueRestore_ec_closingOrigin (x : Slot) (l : Line) (d : Data) (g : DownTag) (s : State) :
    (issueRestore x l d g s).ec.closingOrigin = s.ec.closingOrigin := by simp [issueRestore]
@[simp] theorem issueRestore_ec_removedSome (x : Slot) (l : Line) (d : Data) (g : DownTag) (s : State) :
    (issueRestore x l d g s).ec.removedSome = s.ec.removedSome := by simp [issueRestore]
@[simp] theorem issueRestore_jr_head (x : Slot) (l : Line) (d : Data) (g : DownTag) (s : State) :
    (issueRestore x l d g s).jr.head = s.jr.head := by simp [issueRestore]
@[simp] theorem issueRestore_jr_tail (x : Slot) (l : Line) (d : Data) (g : DownTag) (s : State) :
    (issueRestore x l d g s).jr.tail = s.jr.tail := by simp [issueRestore]
@[simp] theorem issueRestore_jr_full (x : Slot) (l : Line) (d : Data) (g : DownTag) (s : State) :
    (issueRestore x l d g s).jr.full = s.jr.full := by simp [issueRestore]
@[simp] theorem issueRestore_jr_lowArmed (x : Slot) (l : Line) (d : Data) (g : DownTag) (s : State) :
    (issueRestore x l d g s).jr.lowArmed = s.jr.lowArmed := by simp [issueRestore]
@[simp] theorem issueRestore_ip (x : Slot) (l : Line) (d : Data) (g : DownTag) (s : State) :
    (issueRestore x l d g s).ip = s.ip := by simp [issueRestore]
@[simp] theorem issueRestore_ss (x : Slot) (l : Line) (d : Data) (g : DownTag) (s : State) :
    (issueRestore x l d g s).ss = s.ss := by simp [issueRestore]
@[simp] theorem issueRestore_contexts (x : Slot) (l : Line) (d : Data) (g : DownTag) (s : State) :
    (issueRestore x l d g s).contexts = s.contexts := by simp [issueRestore]
@[simp] theorem issueRestore_lht (x : Slot) (l : Line) (d : Data) (g : DownTag) (s : State) :
    (issueRestore x l d g s).lht = s.lht := by simp [issueRestore]
@[simp] theorem issueRestore_holds (x : Slot) (l : Line) (d : Data) (g : DownTag) (s : State) :
    (issueRestore x l d g s).holds = s.holds := by simp [issueRestore]
@[simp] theorem issueRestore_dp_link (x : Slot) (l : Line) (d : Data) (g : DownTag) (s : State) :
    (issueRestore x l d g s).dp.link = s.dp.link := by simp [issueRestore]
@[simp] theorem issueRestore_dp_quarantine (x : Slot) (l : Line) (d : Data) (g : DownTag) (s : State) :
    (issueRestore x l d g s).dp.quarantine = s.dp.quarantine := by simp [issueRestore]
@[simp] theorem issueRestore_dp_tagWait (x : Slot) (l : Line) (d : Data) (g : DownTag) (s : State) :
    (issueRestore x l d g s).dp.tagWait = s.dp.tagWait := by simp [issueRestore]
@[simp] theorem issueRestore_wu (x : Slot) (l : Line) (d : Data) (g : DownTag) (s : State) :
    (issueRestore x l d g s).wu = s.wu := by simp [issueRestore]
@[simp] theorem issueRestore_eq (x : Slot) (l : Line) (d : Data) (g : DownTag) (s : State) :
    (issueRestore x l d g s).eq = s.eq := by simp [issueRestore]
@[simp] theorem issueRestore_cfg (x : Slot) (l : Line) (d : Data) (g : DownTag) (s : State) :
    (issueRestore x l d g s).cfg = s.cfg := by simp [issueRestore]
@[simp] theorem issueRestore_mp (x : Slot) (l : Line) (d : Data) (g : DownTag) (s : State) :
    (issueRestore x l d g s).mp = s.mp := by simp [issueRestore]
@[simp] theorem issueRestore_upTx (x : Slot) (l : Line) (d : Data) (g : DownTag) (s : State) :
    (issueRestore x l d g s).upTx = s.upTx := by simp [issueRestore]

/-! ### setMarks -/

@[simp] theorem setMarks_pending (ws : List (Fin 4)) (s : State) :
    (setMarks ws s).pending = s.pending := rfl
@[simp] theorem setMarks_now (ws : List (Fin 4)) (s : State) :
    (setMarks ws s).now = s.now := rfl
@[simp] theorem setMarks_held (ws : List (Fin 4)) (s : State) :
    (setMarks ws s).held = s.held := rfl
@[simp] theorem setMarks_pins (ws : List (Fin 4)) (s : State) :
    (setMarks ws s).pins = s.pins := rfl
@[simp] theorem setMarks_upLink (ws : List (Fin 4)) (s : State) :
    (setMarks ws s).upLink = s.upLink := rfl
@[simp] theorem setMarks_regions (ws : List (Fin 4)) (s : State) :
    (setMarks ws s).regions = s.regions := rfl
@[simp] theorem setMarks_stamps (ws : List (Fin 4)) (s : State) :
    (setMarks ws s).stamps = s.stamps := rfl
@[simp] theorem setMarks_ec (ws : List (Fin 4)) (s : State) :
    (setMarks ws s).ec = s.ec := rfl
@[simp] theorem setMarks_jr (ws : List (Fin 4)) (s : State) :
    (setMarks ws s).jr = s.jr := rfl
@[simp] theorem setMarks_ip (ws : List (Fin 4)) (s : State) :
    (setMarks ws s).ip = s.ip := rfl
@[simp] theorem setMarks_ss (ws : List (Fin 4)) (s : State) :
    (setMarks ws s).ss = s.ss := rfl
@[simp] theorem setMarks_contexts (ws : List (Fin 4)) (s : State) :
    (setMarks ws s).contexts = s.contexts := rfl
@[simp] theorem setMarks_lht (ws : List (Fin 4)) (s : State) :
    (setMarks ws s).lht = s.lht := rfl
@[simp] theorem setMarks_holds (ws : List (Fin 4)) (s : State) :
    (setMarks ws s).holds = s.holds := rfl
@[simp] theorem setMarks_dp (ws : List (Fin 4)) (s : State) :
    (setMarks ws s).dp = s.dp := rfl
@[simp] theorem setMarks_wu_watches (ws : List (Fin 4)) (s : State) :
    (setMarks ws s).wu.watches = s.wu.watches := rfl
@[simp] theorem setMarks_eq (ws : List (Fin 4)) (s : State) :
    (setMarks ws s).eq = s.eq := rfl
@[simp] theorem setMarks_cfg (ws : List (Fin 4)) (s : State) :
    (setMarks ws s).cfg = s.cfg := rfl
@[simp] theorem setMarks_mp (ws : List (Fin 4)) (s : State) :
    (setMarks ws s).mp = s.mp := rfl
@[simp] theorem setMarks_upTx (ws : List (Fin 4)) (s : State) :
    (setMarks ws s).upTx = s.upTx := rfl
@[simp] theorem setMarks_downTx (ws : List (Fin 4)) (s : State) :
    (setMarks ws s).downTx = s.downTx := rfl

/-! ### disarmRule -/

@[simp] theorem disarmRule_pending (k : Fin 2) (s : State) :
    (disarmRule k s).pending = s.pending := rfl
@[simp] theorem disarmRule_now (k : Fin 2) (s : State) :
    (disarmRule k s).now = s.now := rfl
@[simp] theorem disarmRule_held (k : Fin 2) (s : State) :
    (disarmRule k s).held = s.held := rfl
@[simp] theorem disarmRule_pins (k : Fin 2) (s : State) :
    (disarmRule k s).pins = s.pins := rfl
@[simp] theorem disarmRule_upLink (k : Fin 2) (s : State) :
    (disarmRule k s).upLink = s.upLink := rfl
@[simp] theorem disarmRule_regions (k : Fin 2) (s : State) :
    (disarmRule k s).regions = s.regions := rfl
@[simp] theorem disarmRule_stamps (k : Fin 2) (s : State) :
    (disarmRule k s).stamps = s.stamps := rfl
@[simp] theorem disarmRule_ec (k : Fin 2) (s : State) :
    (disarmRule k s).ec = s.ec := rfl
@[simp] theorem disarmRule_jr (k : Fin 2) (s : State) :
    (disarmRule k s).jr = s.jr := rfl
@[simp] theorem disarmRule_ip (k : Fin 2) (s : State) :
    (disarmRule k s).ip = s.ip := rfl
@[simp] theorem disarmRule_ss (k : Fin 2) (s : State) :
    (disarmRule k s).ss = s.ss := rfl
@[simp] theorem disarmRule_contexts (k : Fin 2) (s : State) :
    (disarmRule k s).contexts = s.contexts := rfl
@[simp] theorem disarmRule_lht (k : Fin 2) (s : State) :
    (disarmRule k s).lht = s.lht := rfl
@[simp] theorem disarmRule_holds (k : Fin 2) (s : State) :
    (disarmRule k s).holds = s.holds := rfl
@[simp] theorem disarmRule_dp (k : Fin 2) (s : State) :
    (disarmRule k s).dp = s.dp := rfl
@[simp] theorem disarmRule_wu_watches (k : Fin 2) (s : State) :
    (disarmRule k s).wu.watches = s.wu.watches := rfl
@[simp] theorem disarmRule_eq (k : Fin 2) (s : State) :
    (disarmRule k s).eq = s.eq := rfl
@[simp] theorem disarmRule_cfg (k : Fin 2) (s : State) :
    (disarmRule k s).cfg = s.cfg := rfl
@[simp] theorem disarmRule_mp (k : Fin 2) (s : State) :
    (disarmRule k s).mp = s.mp := rfl
@[simp] theorem disarmRule_upTx (k : Fin 2) (s : State) :
    (disarmRule k s).upTx = s.upTx := rfl
@[simp] theorem disarmRule_downTx (k : Fin 2) (s : State) :
    (disarmRule k s).downTx = s.downTx := rfl

/-! ### upstreamUp -/

@[simp] theorem upstreamUp_pending (s : State) :
    (upstreamUp s).pending = s.pending := rfl
@[simp] theorem upstreamUp_now (s : State) :
    (upstreamUp s).now = s.now := rfl
@[simp] theorem upstreamUp_held (s : State) :
    (upstreamUp s).held = s.held := rfl
@[simp] theorem upstreamUp_pins (s : State) :
    (upstreamUp s).pins = s.pins := rfl
@[simp] theorem upstreamUp_regions (s : State) :
    (upstreamUp s).regions = s.regions := rfl
@[simp] theorem upstreamUp_stamps (s : State) :
    (upstreamUp s).stamps = s.stamps := rfl
@[simp] theorem upstreamUp_ec (s : State) :
    (upstreamUp s).ec = s.ec := rfl
@[simp] theorem upstreamUp_jr (s : State) :
    (upstreamUp s).jr = s.jr := rfl
@[simp] theorem upstreamUp_ip (s : State) :
    (upstreamUp s).ip = s.ip := rfl
@[simp] theorem upstreamUp_ss (s : State) :
    (upstreamUp s).ss = s.ss := rfl
@[simp] theorem upstreamUp_contexts (s : State) :
    (upstreamUp s).contexts = s.contexts := rfl
@[simp] theorem upstreamUp_lht (s : State) :
    (upstreamUp s).lht = s.lht := rfl
@[simp] theorem upstreamUp_holds (s : State) :
    (upstreamUp s).holds = s.holds := rfl
@[simp] theorem upstreamUp_dp (s : State) :
    (upstreamUp s).dp = s.dp := rfl
@[simp] theorem upstreamUp_wu (s : State) :
    (upstreamUp s).wu = s.wu := rfl
@[simp] theorem upstreamUp_cfg (s : State) :
    (upstreamUp s).cfg = s.cfg := rfl
@[simp] theorem upstreamUp_mp (s : State) :
    (upstreamUp s).mp = s.mp := rfl
@[simp] theorem upstreamUp_upTx (s : State) :
    (upstreamUp s).upTx = s.upTx := rfl
@[simp] theorem upstreamUp_downTx (s : State) :
    (upstreamUp s).downTx = s.downTx := rfl

/-! ### downstreamUp -/

@[simp] theorem downstreamUp_pending (s : State) :
    (downstreamUp s).pending = s.pending := rfl
@[simp] theorem downstreamUp_now (s : State) :
    (downstreamUp s).now = s.now := rfl
@[simp] theorem downstreamUp_held (s : State) :
    (downstreamUp s).held = s.held := rfl
@[simp] theorem downstreamUp_pins (s : State) :
    (downstreamUp s).pins = s.pins := rfl
@[simp] theorem downstreamUp_upLink (s : State) :
    (downstreamUp s).upLink = s.upLink := rfl
@[simp] theorem downstreamUp_regions (s : State) :
    (downstreamUp s).regions = s.regions := rfl
@[simp] theorem downstreamUp_stamps (s : State) :
    (downstreamUp s).stamps = s.stamps := rfl
@[simp] theorem downstreamUp_ec (s : State) :
    (downstreamUp s).ec = s.ec := rfl
@[simp] theorem downstreamUp_jr (s : State) :
    (downstreamUp s).jr = s.jr := rfl
@[simp] theorem downstreamUp_ip (s : State) :
    (downstreamUp s).ip = s.ip := rfl
@[simp] theorem downstreamUp_ss (s : State) :
    (downstreamUp s).ss = s.ss := rfl
@[simp] theorem downstreamUp_contexts (s : State) :
    (downstreamUp s).contexts = s.contexts := rfl
@[simp] theorem downstreamUp_lht (s : State) :
    (downstreamUp s).lht = s.lht := rfl
@[simp] theorem downstreamUp_holds (s : State) :
    (downstreamUp s).holds = s.holds := rfl
@[simp] theorem downstreamUp_dp_tracker (s : State) :
    (downstreamUp s).dp.tracker = s.dp.tracker := rfl
@[simp] theorem downstreamUp_dp_quarantine (s : State) :
    (downstreamUp s).dp.quarantine = s.dp.quarantine := rfl
@[simp] theorem downstreamUp_dp_tagWait (s : State) :
    (downstreamUp s).dp.tagWait = s.dp.tagWait := rfl
@[simp] theorem downstreamUp_wu (s : State) :
    (downstreamUp s).wu = s.wu := rfl
@[simp] theorem downstreamUp_cfg (s : State) :
    (downstreamUp s).cfg = s.cfg := rfl
@[simp] theorem downstreamUp_mp (s : State) :
    (downstreamUp s).mp = s.mp := rfl
@[simp] theorem downstreamUp_upTx (s : State) :
    (downstreamUp s).upTx = s.upTx := rfl
@[simp] theorem downstreamUp_downTx (s : State) :
    (downstreamUp s).downTx = s.downTx := rfl

/-! ### closeFrame -/

@[simp] theorem closeFrame_pending (s : State) :
    (closeFrame s).pending = s.pending := rfl
@[simp] theorem closeFrame_now (s : State) :
    (closeFrame s).now = s.now := rfl
@[simp] theorem closeFrame_held (s : State) :
    (closeFrame s).held = s.held := rfl
@[simp] theorem closeFrame_pins (s : State) :
    (closeFrame s).pins = s.pins := rfl
@[simp] theorem closeFrame_upLink (s : State) :
    (closeFrame s).upLink = s.upLink := rfl
@[simp] theorem closeFrame_regions (s : State) :
    (closeFrame s).regions = s.regions := rfl
@[simp] theorem closeFrame_stamps (s : State) :
    (closeFrame s).stamps = s.stamps := rfl
@[simp] theorem closeFrame_ec (s : State) :
    (closeFrame s).ec = s.ec := rfl
@[simp] theorem closeFrame_jr (s : State) :
    (closeFrame s).jr = s.jr := rfl
@[simp] theorem closeFrame_ip (s : State) :
    (closeFrame s).ip = s.ip := rfl
@[simp] theorem closeFrame_ss (s : State) :
    (closeFrame s).ss = s.ss := rfl
@[simp] theorem closeFrame_contexts (s : State) :
    (closeFrame s).contexts = s.contexts := rfl
@[simp] theorem closeFrame_lht (s : State) :
    (closeFrame s).lht = s.lht := rfl
@[simp] theorem closeFrame_holds (s : State) :
    (closeFrame s).holds = s.holds := rfl
@[simp] theorem closeFrame_dp (s : State) :
    (closeFrame s).dp = s.dp := rfl
@[simp] theorem closeFrame_wu (s : State) :
    (closeFrame s).wu = s.wu := rfl
@[simp] theorem closeFrame_eq (s : State) :
    (closeFrame s).eq = s.eq := rfl
@[simp] theorem closeFrame_cfg (s : State) :
    (closeFrame s).cfg = s.cfg := rfl
@[simp] theorem closeFrame_mp_reply (s : State) :
    (closeFrame s).mp.reply = s.mp.reply := rfl
@[simp] theorem closeFrame_upTx (s : State) :
    (closeFrame s).upTx = s.upTx := rfl
@[simp] theorem closeFrame_downTx (s : State) :
    (closeFrame s).downTx = s.downTx := rfl

/-! ### writeRecord -/

@[simp] theorem writeRecord_pending (c q : Byte) (st : ReplyStatus) (r : Option Reason) (bs : List Byte) (s : State) :
    (writeRecord c q st r bs s).pending = s.pending := rfl
@[simp] theorem writeRecord_now (c q : Byte) (st : ReplyStatus) (r : Option Reason) (bs : List Byte) (s : State) :
    (writeRecord c q st r bs s).now = s.now := rfl
@[simp] theorem writeRecord_held (c q : Byte) (st : ReplyStatus) (r : Option Reason) (bs : List Byte) (s : State) :
    (writeRecord c q st r bs s).held = s.held := rfl
@[simp] theorem writeRecord_pins (c q : Byte) (st : ReplyStatus) (r : Option Reason) (bs : List Byte) (s : State) :
    (writeRecord c q st r bs s).pins = s.pins := rfl
@[simp] theorem writeRecord_upLink (c q : Byte) (st : ReplyStatus) (r : Option Reason) (bs : List Byte) (s : State) :
    (writeRecord c q st r bs s).upLink = s.upLink := rfl
@[simp] theorem writeRecord_regions (c q : Byte) (st : ReplyStatus) (r : Option Reason) (bs : List Byte) (s : State) :
    (writeRecord c q st r bs s).regions = s.regions := rfl
@[simp] theorem writeRecord_stamps (c q : Byte) (st : ReplyStatus) (r : Option Reason) (bs : List Byte) (s : State) :
    (writeRecord c q st r bs s).stamps = s.stamps := rfl
@[simp] theorem writeRecord_ec (c q : Byte) (st : ReplyStatus) (r : Option Reason) (bs : List Byte) (s : State) :
    (writeRecord c q st r bs s).ec = s.ec := rfl
@[simp] theorem writeRecord_jr (c q : Byte) (st : ReplyStatus) (r : Option Reason) (bs : List Byte) (s : State) :
    (writeRecord c q st r bs s).jr = s.jr := rfl
@[simp] theorem writeRecord_ip (c q : Byte) (st : ReplyStatus) (r : Option Reason) (bs : List Byte) (s : State) :
    (writeRecord c q st r bs s).ip = s.ip := rfl
@[simp] theorem writeRecord_ss (c q : Byte) (st : ReplyStatus) (r : Option Reason) (bs : List Byte) (s : State) :
    (writeRecord c q st r bs s).ss = s.ss := rfl
@[simp] theorem writeRecord_contexts (c q : Byte) (st : ReplyStatus) (r : Option Reason) (bs : List Byte) (s : State) :
    (writeRecord c q st r bs s).contexts = s.contexts := rfl
@[simp] theorem writeRecord_lht (c q : Byte) (st : ReplyStatus) (r : Option Reason) (bs : List Byte) (s : State) :
    (writeRecord c q st r bs s).lht = s.lht := rfl
@[simp] theorem writeRecord_holds (c q : Byte) (st : ReplyStatus) (r : Option Reason) (bs : List Byte) (s : State) :
    (writeRecord c q st r bs s).holds = s.holds := rfl
@[simp] theorem writeRecord_dp (c q : Byte) (st : ReplyStatus) (r : Option Reason) (bs : List Byte) (s : State) :
    (writeRecord c q st r bs s).dp = s.dp := rfl
@[simp] theorem writeRecord_wu (c q : Byte) (st : ReplyStatus) (r : Option Reason) (bs : List Byte) (s : State) :
    (writeRecord c q st r bs s).wu = s.wu := rfl
@[simp] theorem writeRecord_eq (c q : Byte) (st : ReplyStatus) (r : Option Reason) (bs : List Byte) (s : State) :
    (writeRecord c q st r bs s).eq = s.eq := rfl
@[simp] theorem writeRecord_cfg (c q : Byte) (st : ReplyStatus) (r : Option Reason) (bs : List Byte) (s : State) :
    (writeRecord c q st r bs s).cfg = s.cfg := rfl
@[simp] theorem writeRecord_mp_frame (c q : Byte) (st : ReplyStatus) (r : Option Reason) (bs : List Byte) (s : State) :
    (writeRecord c q st r bs s).mp.frame = s.mp.frame := rfl
@[simp] theorem writeRecord_upTx (c q : Byte) (st : ReplyStatus) (r : Option Reason) (bs : List Byte) (s : State) :
    (writeRecord c q st r bs s).upTx = s.upTx := rfl
@[simp] theorem writeRecord_downTx (c q : Byte) (st : ReplyStatus) (r : Option Reason) (bs : List Byte) (s : State) :
    (writeRecord c q st r bs s).downTx = s.downTx := rfl

/-! ## The fields each operation writes -/

@[simp] theorem postEvent_eq (k : EventKind) (q : Option (BitVec 32)) (l : Option Line) (d : BitVec 16) (s : State) :
    (postEvent k q l d s).eq = offerEvent s.cfg.alertMask k q l d s.eq := rfl
@[simp] theorem issue_dp_tracker (g : DownTag) (p : Purpose) (o : Owner) (l : Line) (m : MemRequest) (s : State) :
    (issue g p o l m s).dp.tracker =
      tableSet s.dp.tracker g.val ⟨p, o, l, s.now + s.cfg.downTimeout, none, none⟩ := rfl
@[simp] theorem issue_downTx (g : DownTag) (p : Purpose) (o : Owner) (l : Line) (m : MemRequest) (s : State) :
    (issue g p o l m s).downTx = s.downTx ++ [m] := rfl
@[simp] theorem removeEntry_dp_tracker (g : DownTag) (s : State) :
    (removeEntry g s).dp.tracker = tableErase s.dp.tracker g.val := rfl
@[simp] theorem quarantineTag_dp_quarantine (g : DownTag) (l : Line) (s : State) :
    (quarantineTag g l s).dp.quarantine = tableSet s.dp.quarantine g.val l := rfl
@[simp] theorem endQuarantine_dp_quarantine (g : DownTag) (s : State) :
    (endQuarantine g s).dp.quarantine = tableErase s.dp.quarantine g.val := rfl
@[simp] theorem createContext_contexts (t : HostTag) (r : Request) (l : Line) (s : State) :
    (createContext t r l s).contexts = tableSet s.contexts t.val ⟨r, l, .QUEUED, none, none, none⟩ := rfl
@[simp] theorem updateContext_contexts (t : HostTag) (g : Context → Context) (s : State) :
    (updateContext t g s).contexts = tableUpdate s.contexts t.val g := rfl
@[simp] theorem dropContext_contexts (t : HostTag) (s : State) :
    (dropContext t s).contexts = tableErase s.contexts t.val := rfl
@[simp] theorem joinHolds_holds (t : HostTag) (l : Line) (r : HoldReason) (s : State) :
    (joinHolds t l r s).holds = s.holds ++ [⟨t, l, r, holdExpiryTime s⟩] := rfl
@[simp] theorem leaveHolds_holds (t : HostTag) (s : State) :
    (leaveHolds t s).holds = s.holds.filter fun h => h.tag != t := rfl
@[simp] theorem joinChain_lht (l : Line) (st : Step) (s : State) :
    (joinChain l st s).lht = putChain s.lht l (chainOf s l ++ [st]) := rfl
@[simp] theorem leaveChain_lht (l : Line) (st : Step) (s : State) :
    (leaveChain l st s).lht = putChain s.lht l ((chainOf s l).filter fun x => x != st) := rfl
@[simp] theorem waitForTag_dp_tagWait (st : Step) (s : State) :
    (waitForTag st s).dp.tagWait = s.dp.tagWait ++ [st] := rfl
@[simp] theorem waitFirst_dp_tagWait (st : Step) (s : State) : (waitFirst st s).dp.tagWait = st :: s.dp.tagWait := rfl
@[simp] theorem stopWaiting_dp_tagWait (st : Step) (s : State) :
    (stopWaiting st s).dp.tagWait = s.dp.tagWait.filter fun x => x != st := rfl
@[simp] theorem endContext_contexts (t : HostTag) (c : Context) (st : HostStatus) (d : Option Data) (s : State) :
    (endContext t c st d s).contexts = tableErase s.contexts t.val := by
  simp [endContext, discardContext]
@[simp] theorem endContext_holds (t : HostTag) (c : Context) (st : HostStatus) (d : Option Data) (s : State) :
    (endContext t c st d s).holds = s.holds.filter fun h => h.tag != t := by
  simp [endContext, discardContext]
@[simp] theorem endContext_lht (t : HostTag) (c : Context) (st : HostStatus) (d : Option Data) (s : State) :
    (endContext t c st d s).lht = putChain s.lht c.line ((chainOf s c.line).filter fun x => x != .host t) := by
  simp [endContext, discardContext, chainOf]
@[simp] theorem endContext_dp_tagWait (t : HostTag) (c : Context) (st : HostStatus) (d : Option Data) (s : State) :
    (endContext t c st d s).dp.tagWait = s.dp.tagWait.filter fun x => x != .host t := by
  simp [endContext, discardContext]
@[simp] theorem endContext_upTx (t : HostTag) (c : Context) (st : HostStatus) (d : Option Data) (s : State) :
    (endContext t c st d s).upTx = if s.upLink = .UP then s.upTx ++ [⟨t, c.request.kind, st, d⟩] else s.upTx := by
  simp [endContext, sendReply]
@[simp] theorem updateRecord_jr_records (x : Slot) (g : Record → Record) (s : State) :
    (updateRecord x g s).jr.records = tableUpdate s.jr.records x.toNat g := rfl
@[simp] theorem retire_ip_retiring (e : BitVec 16) (is : List Ident) (s : State) :
    (retire e is s).ip.retiring = s.ip.retiring ++ is.map fun i => ⟨i, e⟩ := rfl
@[simp] theorem popEpoch_ec_stack (s : State) : (popEpoch s).ec.stack = s.ec.stack.tail := rfl
@[simp] theorem closeFrame_mp_frame (s : State) : (closeFrame s).mp.frame = none := rfl
@[simp] theorem writeRecord_mp_reply (c q : Byte) (st : ReplyStatus) (r : Option Reason) (bs : List Byte) (s : State) :
    (writeRecord c q st r bs s).mp.reply = ⟨q, c, st, r, resultOf bs⟩ := rfl
@[simp] theorem upstreamUp_upLink (s : State) : (upstreamUp s).upLink = .UP := rfl
@[simp] theorem downstreamUp_dp_link (s : State) : (downstreamUp s).dp.link = .UP := rfl

end Sys2Proof.Machine
end

