-- ==== Sys2Proof/Laws/Table.lean ====
section
/-! SUPPORT. The sparse stores: what is read after a write, and that every operation keeps the canonical form. -/

namespace Sys2Proof.Machine

variable {α : Type} {β : Type}

/-! ## The canonical form -/

/-- The canonical form is: addresses strictly rising. -/
theorem tableWf_iff (t : Table α) : tableWf t = true ↔ (t.map (·.1)).Pairwise (· < ·) := by
  induction t with
  | nil => simp [tableWf]
  | cons p r ih =>
    obtain ⟨k, v⟩ := p
    cases r with
    | nil => simp [tableWf]
    | cons q r' =>
      obtain ⟨k', v'⟩ := q
      simp only [tableWf, Bool.and_eq_true, decide_eq_true_eq, ih, List.map_cons, List.pairwise_cons,
        List.mem_cons, List.mem_map]
      constructor
      · rintro ⟨h, h2, h3⟩
        refine ⟨?_, h2, h3⟩
        rintro a (rfl | ⟨x, hx, rfl⟩)
        · exact h
        · exact lt_trans h (h2 _ ⟨x, hx, rfl⟩)
      · rintro ⟨h, h2, h3⟩
        exact ⟨h _ (Or.inl rfl), h2, h3⟩

theorem tableWf_cons (k : Nat) (v : α) (r : Table α) :
    tableWf ((k, v) :: r) = true ↔ (∀ p ∈ r, k < p.1) ∧ tableWf r = true := by
  simp [tableWf_iff, List.pairwise_cons]

theorem tableWf_sublist {t u : Table α} (h : t.Sublist u) (hu : tableWf u = true) : tableWf t = true := by
  rw [tableWf_iff] at *
  exact hu.sublist (h.map _)

theorem tableWf_filter (t : Table α) (p : Nat × α → Bool) (h : tableWf t = true) :
    tableWf (t.filter p) = true := tableWf_sublist List.filter_sublist h

/-- A change of entries that leaves the addresses keeps the form. -/
theorem tableWf_map (t : Table α) (g : Nat × α → β) (h : tableWf t = true) :
    tableWf (t.map fun p => (p.1, g p)) = true := by
  rw [tableWf_iff] at *
  simpa [Function.comp_def] using h

/-- Entries dropped or changed under their own address keep the form. -/
theorem tableWf_filterMap (t : Table α) (g : Nat × α → Option (Nat × β))
    (hg : ∀ p q, g p = some q → q.1 = p.1) (h : tableWf t = true) : tableWf (t.filterMap g) = true := by
  induction t with
  | nil => simp [tableWf]
  | cons p r ih =>
    obtain ⟨k, v⟩ := p
    rw [tableWf_cons] at h
    rw [List.filterMap_cons]
    split
    · exact ih h.2
    · rename_i q hq
      obtain ⟨k', w⟩ := q
      rw [tableWf_cons]
      refine ⟨?_, ih h.2⟩
      intro q' hq'
      obtain ⟨p', hp', hgp'⟩ := List.mem_filterMap.mp hq'
      have e1 : k' = k := hg _ _ hq
      have e2 := hg _ _ hgp'
      rw [e1, e2]
      exact h.1 _ hp'

/-! ## Keys -/

theorem mem_tableSet {t : Table α} {k : Nat} {v : α} {p : Nat × α} (h : p ∈ tableSet t k v) :
    p = (k, v) ∨ p ∈ t := by
  induction t with
  | nil => simpa [tableSet] using h
  | cons q r ih =>
    obtain ⟨k', v'⟩ := q
    simp only [tableSet] at h
    split at h
    · simpa using h
    · split at h
      · rcases List.mem_cons.mp h with h | h
        · exact Or.inl h
        · exact Or.inr (List.mem_cons_of_mem _ h)
      · rcases List.mem_cons.mp h with h | h
        · exact Or.inr (by simp [h])
        · exact (ih h).imp id (List.mem_cons_of_mem _)

theorem mem_tableErase {t : Table α} {k : Nat} {p : Nat × α} (h : p ∈ tableErase t k) : p ∈ t := by
  induction t with
  | nil => simp [tableErase] at h
  | cons q r ih =>
    obtain ⟨k', v'⟩ := q
    simp only [tableErase] at h
    split at h
    · exact List.mem_cons_of_mem _ h
    · rcases List.mem_cons.mp h with h | h
      · simp [h]
      · exact List.mem_cons_of_mem _ (ih h)

theorem tableErase_sublist (t : Table α) (k : Nat) : (tableErase t k).Sublist t := by
  induction t with
  | nil => simp [tableErase]
  | cons q r ih =>
    obtain ⟨k', v'⟩ := q
    simp only [tableErase]
    split
    · exact List.sublist_cons_self _ _
    · exact ih.cons_cons _

/-- Every entry of the store satisfies a property of address and entry. -/
theorem tableSet_all {P : Nat × α → Prop} {t : Table α} {k : Nat} {v : α} (ht : ∀ p ∈ t, P p) (hv : P (k, v)) :
    ∀ p ∈ tableSet t k v, P p := by
  intro p hp
  rcases mem_tableSet hp with rfl | h
  · exact hv
  · exact ht p h

theorem tableErase_all {P : Nat × α → Prop} {t : Table α} {k : Nat} (ht : ∀ p ∈ t, P p) :
    ∀ p ∈ tableErase t k, P p := fun p hp => ht p (mem_tableErase hp)

theorem tableGet_mem {t : Table α} {k : Nat} {v : α} (h : tableGet t k = some v) : (k, v) ∈ t := by
  induction t with
  | nil => simp [tableGet] at h
  | cons q r ih =>
    obtain ⟨k', v'⟩ := q
    simp only [tableGet] at h
    split at h
    · rename_i e
      simp_all
    · exact List.mem_cons_of_mem _ (ih h)

theorem tableGet_none_of_lt {t : Table α} {k : Nat} (h : ∀ p ∈ t, k < p.1) : tableGet t k = none := by
  induction t with
  | nil => rfl
  | cons q r ih =>
    obtain ⟨k', v'⟩ := q
    have h1 := h (k', v') (by simp)
    simp only [tableGet]
    rw [if_neg (by simp at h1; omega)]
    exact ih fun p hp => h p (List.mem_cons_of_mem _ hp)

/-! ## Every operation keeps the form -/

theorem tableWf_set (t : Table α) (k : Nat) (v : α) (h : tableWf t = true) : tableWf (tableSet t k v) = true := by
  induction t with
  | nil => simp [tableSet, tableWf]
  | cons q r ih =>
    obtain ⟨k', v'⟩ := q
    simp only [tableSet]
    have hw := h
    rw [tableWf_cons] at h
    split
    · rename_i hlt
      rw [tableWf_cons]
      refine ⟨?_, hw⟩
      intro p hp
      rcases List.mem_cons.mp hp with rfl | hp
      · exact hlt
      · exact lt_trans hlt (h.1 p hp)
    · split
      · rename_i he
        subst he
        rw [tableWf_cons]
        exact h
      · rename_i h1 h2
        rw [tableWf_cons]
        refine ⟨?_, ih h.2⟩
        intro p hp
        rcases mem_tableSet hp with rfl | hp
        · show k' < k
          omega
        · exact h.1 p hp

theorem tableWf_erase (t : Table α) (k : Nat) (h : tableWf t = true) : tableWf (tableErase t k) = true :=
  tableWf_sublist (tableErase_sublist t k) h

theorem tableWf_update (t : Table α) (k : Nat) (g : α → α) (h : tableWf t = true) :
    tableWf (tableUpdate t k g) = true := by
  unfold tableUpdate
  split
  · exact tableWf_set _ _ _ h
  · exact h

/-! ## Read after write -/

@[simp] theorem tableGet_set_same (t : Table α) (k : Nat) (v : α) : tableGet (tableSet t k v) k = some v := by
  induction t with
  | nil => simp [tableSet, tableGet]
  | cons q r ih =>
    obtain ⟨k', v'⟩ := q
    simp only [tableSet]
    split
    · simp [tableGet]
    · split
      · simp [tableGet]
      · rename_i h1 h2
        simp [tableGet, h2, ih]

theorem tableGet_set_other (t : Table α) {k j : Nat} (v : α) (h : j ≠ k) :
    tableGet (tableSet t k v) j = tableGet t j := by
  induction t with
  | nil => simp [tableSet, tableGet, h]
  | cons q r ih =>
    obtain ⟨k', v'⟩ := q
    simp only [tableSet]
    split
    · simp [tableGet, h]
    · split
      · rename_i h1 h2
        subst h2
        simp [tableGet, h]
      · simp only [tableGet]
        split
        · rfl
        · exact ih

theorem tableGet_set (t : Table α) (k j : Nat) (v : α) :
    tableGet (tableSet t k v) j = if j = k then some v else tableGet t j := by
  split
  · rename_i h
    subst h
    simp
  · rename_i h
    exact tableGet_set_other t v h

theorem tableGet_erase_same (t : Table α) (k : Nat) (h : tableWf t = true) : tableGet (tableErase t k) k = none := by
  induction t with
  | nil => rfl
  | cons q r ih =>
    obtain ⟨k', v'⟩ := q
    rw [tableWf_cons] at h
    simp only [tableErase]
    split
    · rename_i e
      subst e
      exact tableGet_none_of_lt h.1
    · rename_i e
      simp only [tableGet, if_neg e]
      exact ih h.2

theorem tableGet_erase_other (t : Table α) {k j : Nat} (h : j ≠ k) : tableGet (tableErase t k) j = tableGet t j := by
  induction t with
  | nil => rfl
  | cons q r ih =>
    obtain ⟨k', v'⟩ := q
    simp only [tableErase]
    split
    · rename_i e
      subst e
      simp [tableGet, h]
    · simp only [tableGet]
      split
      · rfl
      · exact ih

theorem tableGet_update_same (t : Table α) (k : Nat) (g : α → α) :
    tableGet (tableUpdate t k g) k = (tableGet t k).map g := by
  unfold tableUpdate
  cases h : tableGet t k <;> simp [h]

theorem tableGet_update_other (t : Table α) {k j : Nat} (g : α → α) (h : j ≠ k) :
    tableGet (tableUpdate t k g) j = tableGet t j := by
  unfold tableUpdate
  cases hk : tableGet t k <;> simp [tableGet_set_other t _ h]

theorem mem_tableUpdate {t : Table α} {k : Nat} {g : α → α} {p : Nat × α} (h : p ∈ tableUpdate t k g) :
    p ∈ t ∨ ∃ v, tableGet t k = some v ∧ p = (k, g v) := by
  unfold tableUpdate at h
  split at h
  · rename_i v hv
    rcases mem_tableSet h with h | h
    · exact Or.inr ⟨v, hv, h⟩
    · exact Or.inl h
  · exact Or.inl h

/-- Two stores in canonical form that read alike everywhere are equal. -/
theorem tableGet_ext (t u : Table α) (ht : tableWf t = true) (hu : tableWf u = true)
    (h : ∀ k, tableGet t k = tableGet u k) : t = u := by
  induction t generalizing u with
  | nil =>
    cases u with
    | nil => rfl
    | cons q r => have := h q.1; simp [tableGet] at this
  | cons p r ih =>
    obtain ⟨k, v⟩ := p
    cases u with
    | nil => have := h k; simp [tableGet] at this
    | cons q r' =>
      obtain ⟨k', v'⟩ := q
      rw [tableWf_cons] at ht hu
      have hk : k = k' := by
        rcases Nat.lt_trichotomy k k' with hlt | he | hgt
        · have h1 := h k
          simp only [tableGet, if_neg (Nat.ne_of_lt hlt)] at h1
          rw [tableGet_none_of_lt fun p hp => lt_trans hlt (hu.1 p hp)] at h1
          simp at h1
        · exact he
        · have h1 := h k'
          simp only [tableGet, if_neg (Nat.ne_of_lt hgt)] at h1
          rw [tableGet_none_of_lt fun p hp => lt_trans hgt (ht.1 p hp)] at h1
          simp at h1
      subst hk
      have hv : v = v' := by simpa [tableGet] using h k
      subst hv
      congr 1
      refine ih r' ht.2 hu.2 fun j => ?_
      have hj := h j
      by_cases e : j = k
      · subst e
        rw [tableGet_none_of_lt ht.1, tableGet_none_of_lt hu.1]
      · simpa [tableGet, e] using hj

/-! ## Stamps (01 R13, R14) -/

theorem stampsWf_set (t : Table Ident) (k : Nat) (v : Ident) (hk : k ≤ Config.lastStamp.toNat)
    (h : stampsWf t = true) : stampsWf (stampSet t k v) = true := by
  simp only [stampsWf, Bool.and_eq_true, List.all_eq_true, decide_eq_true_eq, bne_iff_ne] at *
  unfold stampSet
  split
  · exact ⟨tableWf_erase t k h.1, tableErase_all h.2⟩
  · rename_i hv
    exact ⟨tableWf_set t k v h.1, tableSet_all h.2 ⟨hk, hv⟩⟩

theorem stampGet_set_same (t : Table Ident) (k : Nat) (v : Ident) (h : tableWf t = true) :
    stampGet (stampSet t k v) k = v := by
  unfold stampSet
  split
  · rename_i hv
    simp [stampGet, tableGet_erase_same t k h, hv]
  · simp [stampGet]

theorem stampGet_set_other (t : Table Ident) {k j : Nat} (v : Ident) (h : j ≠ k) :
    stampGet (stampSet t k v) j = stampGet t j := by
  by_cases hv : v = 0
  · simp [stampSet, stampGet, hv, tableGet_erase_other t h]
  · rw [stampSet, if_neg hv, stampGet, stampGet, tableGet_set_other t v h]

/-! ## Journal slots (03 R36) -/

theorem recordsWf_set (t : Table Record) (slot : Slot) (r : Record) (h : recordsWf t = true) :
    recordsWf (tableSet t slot.toNat r) = true := by
  simp only [recordsWf, Bool.and_eq_true, List.all_eq_true, decide_eq_true_eq] at *
  exact ⟨tableWf_set t _ r h.1, tableSet_all h.2 slot.isLt⟩

theorem recordsWf_erase (t : Table Record) (k : Nat) (h : recordsWf t = true) :
    recordsWf (tableErase t k) = true := by
  simp only [recordsWf, Bool.and_eq_true, List.all_eq_true, decide_eq_true_eq] at *
  exact ⟨tableWf_erase t k h.1, tableErase_all h.2⟩

theorem recordsWf_filter (t : Table Record) (p : Nat × Record → Bool) (h : recordsWf t = true) :
    recordsWf (t.filter p) = true := by
  simp only [recordsWf, Bool.and_eq_true, List.all_eq_true, decide_eq_true_eq] at *
  exact ⟨tableWf_filter t p h.1, fun q hq => h.2 q (List.mem_of_mem_filter hq)⟩

theorem recordsWf_update (t : Table Record) (slot : Slot) (g : Record → Record) (h : recordsWf t = true) :
    recordsWf (tableUpdate t slot.toNat g) = true := by
  unfold tableUpdate
  split
  · exact recordsWf_set t slot _ h
  · exact h

/-! ## Chains (04 R63) -/

theorem putChain_all {P : Nat × List Step → Prop} {t : Table (List Step)} {line : Line} {c : List Step}
    (ht : ∀ p ∈ t, P p) (hc : c ≠ [] → P (line.toNat, c)) : ∀ p ∈ putChain t line c, P p := by
  unfold putChain
  split
  · exact tableErase_all ht
  · rename_i h
    exact tableSet_all ht (hc h)

theorem tableWf_putChain (t : Table (List Step)) (line : Line) (c : List Step) (h : tableWf t = true) :
    tableWf (putChain t line c) = true := by
  unfold putChain
  split
  · exact tableWf_erase t _ h
  · exact tableWf_set t _ _ h

/-! ## At reset -/

theorem reset_stampsWf : stampsWf State.reset.stamps = true := by decide

theorem reset_recordsWf : recordsWf State.reset.jr.records = true := by decide

end Sys2Proof.Machine
end

