-- ==== Sys2Proof/Laws/Lookups.lean ====
section
/-! SUPPORT. What the lookups answer: the region of a line (01 R2), the lowest free tag (07 R118), the refusal of an
epoch request (02 R27), the capture decision (04 R69). -/

namespace Sys2Proof.Machine

theorem lookup_some {s : State} {line : Line} {k : Fin 8} (h : lookup s line = some k) :
    s.regions[k].covers line = true := by
  simpa using List.find?_some h

theorem lookup_none_iff (s : State) (line : Line) :
    lookup s line = none ↔ ∀ k : Fin 8, s.regions[k].covers line = false := by
  simp [lookup, List.find?_eq_none]

/-- The lookup reads the region table alone. -/
theorem lookup_congr {s t : State} (h : t.regions = s.regions) (line : Line) : lookup t line = lookup s line := by
  simp [lookup, h]

theorem modeOf_congr {s t : State} (h : t.regions = s.regions) (line : Line) : modeOf t line = modeOf s line := by
  simp [modeOf, lookup, h]

theorem isJournalLine_congr {s t : State} (h : t.regions = s.regions) (line : Line) :
    isJournalLine t line = isJournalLine s line := by
  simp [isJournalLine, modeOf_congr h]

/-- The index of a stamp lies in the table where the regions are lawful (01 R13). -/
theorem stampIndex_le {s : State} {line : Line} {k : Fin 8} (hr : Safety.regionsLawful s)
    (h : lookup s line = some k) : stampIndex s k line ≤ Config.lastStamp.toNat := by
  have hc := lookup_some h
  simp only [Region.covers, Bool.and_eq_true, decide_eq_true_eq] at hc
  have hl := (hr k hc.1.1).2.1
  have hk := k.isLt
  have h1 : Config.lastStamp.toNat = 262143 := by decide
  have h2 : Config.partitionSize = 32768 := rfl
  simp only [stampIndex, h1, h2] at *
  omega

theorem freeTag_some {s : State} {tag : DownTag} (h : freeTag s = some tag) :
    tableGet s.dp.tracker tag.val = none ∧ tableGet s.dp.quarantine tag.val = none := by
  simpa using List.find?_some h

theorem freeTag_none_iff (s : State) :
    freeTag s = none ↔ ∀ t : DownTag, tableGet s.dp.tracker t.val ≠ none ∨ tableGet s.dp.quarantine t.val ≠ none := by
  simp only [freeTag, List.find?_eq_none, List.mem_finRange, Bool.and_eq_true, Option.isNone_iff_eq_none, true_implies,
    not_and_or]

/-- The tag taken is the lowest free one. -/
theorem freeTag_iff (s : State) (tag : DownTag) : freeTag s = some tag ↔ Safety.lowestFree s tag := by
  unfold freeTag Safety.lowestFree
  rw [List.find?_eq_some_iff_getElem]
  constructor
  · rintro ⟨h, i, hi, he, hlt⟩
    simp only [Bool.and_eq_true, Option.isNone_iff_eq_none] at h
    refine ⟨h.1, h.2, fun u hu => ?_⟩
    have hi' : i = tag.val := by simpa using congrArg Fin.val he
    have := hlt u.val (by have := Fin.lt_def.mp hu; omega)
    simp only [List.getElem_finRange, Bool.not_eq_true', Bool.and_eq_false_iff, Option.isNone_eq_false_iff] at this
    rcases this with h1 | h1
    · exact Or.inl (by intro h2; simp_all)
    · exact Or.inr (by intro h2; simp_all)
  · rintro ⟨h1, h2, h3⟩
    refine ⟨by simp [h1, h2], tag.val, by simp, by simp, fun j hj => ?_⟩
    have := h3 ⟨j, by omega⟩ hj
    rcases this with h4 | h4
    · cases h5 : tableGet s.dp.tracker j <;> simp_all
    · cases h5 : tableGet s.dp.quarantine j <;> simp_all

/-- The free tag depends on the tracker and the quarantine alone. -/
theorem freeTag_congr {s t : State} (h1 : t.dp.tracker = s.dp.tracker) (h2 : t.dp.quarantine = s.dp.quarantine) :
    freeTag t = freeTag s := by
  simp [freeTag, h1, h2]

theorem chainOf_congr {s t : State} (h : t.lht = s.lht) (line : Line) : chainOf t line = chainOf s line := by
  simp [chainOf, h]

theorem innermost_congr {s t : State} (h : t.ec.stack = s.ec.stack) : innermost t = innermost s := by
  simp [innermost, h]

theorem innermostState_congr {s t : State} (h : t.ec.stack = s.ec.stack) : innermostState t = innermostState s := by
  simp [innermostState, innermost, h]

/-- A request that is accepted passed every test of its operation. -/
theorem refusalOf_none {s : State} {op : EpochOp} (h : refusalOf s op = none) :
    innermostState s ≠ some .DRAINING ∧ innermostState s ≠ some .RESTORING ∧
    ((op = .MRK ∨ op = .CMT) → innermostState s ≠ some .HALTED) ∧ (op ≠ .MRK → s.ec.stack ≠ []) ∧
    (op = .MRK → s.ec.stack.length < Config.maxDepth ∧ s.ip.free ≠ [] ∧ s.ec.counter ≠ Config.lastSequence) ∧
    (op = .RBK → s.dp.link ≠ .DOWN) := by
  unfold refusalOf at h
  split at h
  · simp at h
  rename_i h1
  split at h
  · simp at h
  rename_i h2
  split at h
  · simp at h
  rename_i h3
  split at h
  · simp at h
  rename_i h4
  split at h
  · simp at h
  rename_i h5
  split at h
  · simp at h
  rename_i h6
  split at h
  · simp at h
  rename_i h7
  simp only [not_or, not_and, ne_eq] at h1 h2 h3 h4 h5 h6 h7 ⊢
  exact ⟨h1.1, h1.2, fun ho => h2 ho, h3, fun ho => ⟨not_le.mp (h4 ho), h5 ho, h6 ho⟩, h7⟩

/-- A capture is decided only for a line of a JOURNAL slot, under an unbroken innermost epoch whose set does not name
the line's stamp, with a free slot (04 R69). -/
theorem captureNeed_capture {s : State} {line : Line} {k : Fin 8} {own : Ident} {q : BitVec 32}
    (h : captureNeed s line = .capture k own q) :
    lookup s line = some k ∧ s.regions[k].mode = .JOURNAL ∧ 1 ≤ freeCount s.jr ∧
    ∃ e r, s.ec.stack = e :: r ∧ e.broken = false ∧ own = e.ids.headD 0 ∧ q = e.sequence ∧
      e.ids.contains (stampGet s.stamps (stampIndex s k line)) = false := by
  unfold captureNeed at h
  split at h
  · simp at h
  rename_i k' hk
  split at h
  · simp at h
  rename_i hm
  split at h
  · simp at h
  rename_i e r hs
  split at h
  · simp at h
  rename_i hb
  split at h
  · simp at h
  rename_i hc
  split at h
  · rename_i hf
    simp only [CaptureNeed.capture.injEq] at h
    obtain ⟨rfl, rfl, rfl⟩ := h
    exact ⟨hk, by simpa using hm, hf, e, r, hs, by simpa using hb, rfl, rfl, by simpa using hc⟩
  · simp at h

end Sys2Proof.Machine
end

