-- ==== Sys2Proof/Laws/Agenda.lean ====
section
/-! SUPPORT. What an event's agenda can do: its equations, the induction over its tasks, and the tasks that end a quiet
event. -/

namespace Sys2Proof.Machine

@[simp] theorem runAgenda_nil (n : Nat) (s : State) : runAgenda n [] s = some s := by
  cases n <;> rfl

theorem runAgenda_cons (n : Nat) (t : Task) (ts : List Task) (s : State) :
    runAgenda (n + 1) (t :: ts) s = runAgenda n ((perform t s).2 ++ ts) (perform t s).1 := rfl

/-- What every task keeps, an agenda keeps. -/
theorem runAgenda_keeps {P : State → Prop} (h : ∀ t s, P s → P (perform t s).1) :
    ∀ n ts s u, P s → runAgenda n ts s = some u → P u := by
  intro n
  induction n with
  | zero =>
    intro ts s u hs hr
    cases ts with
    | nil => simp only [runAgenda_nil, Option.some.injEq] at hr; exact hr ▸ hs
    | cons t ts => simp [runAgenda] at hr
  | succ n ih =>
    intro ts s u hs hr
    cases ts with
    | nil => simp only [runAgenda_nil, Option.some.injEq] at hr; exact hr ▸ hs
    | cons t ts => exact ih _ _ _ (h t s hs) (by rwa [runAgenda_cons] at hr)

/-- A relation to the state before that every task keeps, an agenda keeps. -/
theorem runAgenda_relates {R : State → State → Prop} (refl : ∀ s, R s s) (trans : ∀ {a b c}, R a b → R b c → R a c)
    (h : ∀ t s, R s (perform t s).1) (n : Nat) (ts : List Task) (s u : State) (hr : runAgenda n ts s = some u) :
    R s u :=
  runAgenda_keeps (P := R s) (fun t x hx => trans hx (h t x)) n ts s u (refl s) hr

theorem settle_next {ts : List Task} {s u : State} (h : settle ts s = .next u) :
    runAgenda Config.agendaBound ts s = some u := by
  unfold settle at h
  split at h
  · rename_i v hv
    simp only [Host.Outcome.next.injEq] at h
    rw [hv, h]
  · simp at h

theorem settle_of_run {ts : List Task} {s u : State} (h : runAgenda Config.agendaBound ts s = some u) :
    settle ts s = .next u := by
  simp [settle, h]

@[simp] theorem settle_nil (s : State) : settle [] s = .next s := settle_of_run (runAgenda_nil _ _)

/-- What every task keeps, an event keeps. -/
theorem settle_keeps {P : State → Prop} (h : ∀ t s, P s → P (perform t s).1) {ts : List Task} {s u : State}
    (hs : P s) (hr : settle ts s = .next u) : P u :=
  runAgenda_keeps h _ ts s u hs (settle_next hr)

/-- More fuel answers the same. -/
theorem runAgenda_mono : ∀ n m ts s u, runAgenda n ts s = some u → n ≤ m → runAgenda m ts s = some u := by
  intro n
  induction n with
  | zero =>
    intro m ts s u h _
    cases ts with
    | nil => simpa using h
    | cons t ts => simp [runAgenda] at h
  | succ n ih =>
    intro m ts s u h hm
    cases ts with
    | nil => simpa using h
    | cons t ts =>
      obtain ⟨k, rfl⟩ : ∃ k, m = k + 1 := ⟨m - 1, by omega⟩
      rw [runAgenda_cons] at h ⊢
      exact ih k _ _ _ h (by omega)

/-- An event whose agenda ends within a few tasks answers its state. -/
theorem settle_of_steps (n : Nat) {ts : List Task} {s u : State} (h : runAgenda n ts s = some u)
    (hn : n ≤ Config.agendaBound) : settle ts s = .next u :=
  settle_of_run (runAgenda_mono n _ ts s u h hn)

/-! ## Tasks that find nothing to do -/

theorem handOutTags_nil {s : State} (h : s.dp.tagWait = []) : handOutTags s = (s, []) := by
  simp [handOutTags, h]

theorem judgeDrain_idle {s : State} (h : innermostState s ≠ some .DRAINING) : judgeDrain s = (s, []) := by
  unfold judgeDrain
  split
  · rename_i e he
    rw [if_neg]
    rintro ⟨h1, -⟩
    exact h (by simp [innermostState, he, h1])
  · rfl

theorem judgeDrain_waits {s : State} (h : drainSet s ≠ []) : judgeDrain s = (s, []) := by
  unfold judgeDrain
  split
  · rw [if_neg]
    exact fun hh => h hh.2
  · rfl

theorem atFront_nil {s : State} {line : Line} (h : chainOf s line = []) : atFront line s = (s, []) := by
  simp [atFront, h]

/-- The drain judged finds none in progress. -/
theorem settle_drain_idle {s : State} (h : innermostState s ≠ some .DRAINING) : settle [.drain] s = .next s :=
  settle_of_steps 1 (by simp [runAgenda_cons, perform, judgeDrain_idle h]) (by decide)

/-- The drain judged finds it waiting. -/
theorem settle_drain_waits {s : State} (h : drainSet s ≠ []) : settle [.drain] s = .next s :=
  settle_of_steps 1 (by simp [runAgenda_cons, perform, judgeDrain_waits h]) (by decide)

@[simp] theorem eventEnd_empty {s : State} (h : s.dp.tagWait = []) : eventEnd s = [.drain] := by simp [eventEnd, h]

theorem eventEnd_waiting {s : State} (h : s.dp.tagWait ≠ []) : eventEnd s = [.drain, .handOut] := by simp [eventEnd, h]

/-- An event whose agenda answers `u` is the end of the event in `u`. -/
theorem settleEvent_of_run {ts : List Task} {s u : State} (h : runAgenda Config.agendaBound ts s = some u) :
    settleEvent ts s = settle (eventEnd u) u := by
  simp [settleEvent, h]

/-- What an event that answers a next state did: its agenda, then its end. -/
theorem settleEvent_next {ts : List Task} {s u : State} (h : settleEvent ts s = .next u) :
    ∃ t, runAgenda Config.agendaBound ts s = some t ∧ settle (eventEnd t) t = .next u := by
  unfold settleEvent at h
  split at h
  · rename_i t ht
    exact ⟨t, ht, h⟩
  · simp at h

/-- What every task keeps, an event with its end keeps. -/
theorem settleEvent_keeps {P : State → Prop} (h : ∀ t s, P s → P (perform t s).1) {ts : List Task} {s u : State}
    (hs : P s) (hr : settleEvent ts s = .next u) : P u := by
  obtain ⟨t, h1, h2⟩ := settleEvent_next hr
  exact settle_keeps h (runAgenda_keeps h _ _ s t hs h1) h2

/-- An event that finds its line's chain empty and no step waiting for a tag is the judgement of the drain (05 R81). -/
theorem settleEvent_front {s : State} {line : Line} (hc : chainOf s line = []) (hw : s.dp.tagWait = []) :
    settleEvent [.front line] s = settle [.drain] s := by
  have h : runAgenda 1 [.front line] s = some s := by simp [runAgenda_cons, perform, atFront_nil hc]
  rw [settleEvent_of_run (runAgenda_mono 1 _ _ _ _ h (by decide)), eventEnd_empty hw]

/-- The release steps of a closing operation find nothing held. -/
theorem closingEnd_empty {s : State} (b : Bool) (h : s.holds = []) (hd : innermostState s ≠ some .DRAINING) (n : Nat) :
    runAgenda (n + 3) (closingEnd b) s = some s := by
  simp [closingEnd, runAgenda_cons, perform, heldFor, h, judgeDrain_idle hd]

end Sys2Proof.Machine
end

