-- ==== Sys2Proof/Laws/Events.lean ====
section
/-! SUPPORT. What offering an event can do (09 R146, R147, R150). -/

namespace Sys2Proof.Machine

/-- An offer ends in one of two ways: the event joins at the back with the counter's value, or 32 are held and the
offer is counted. Either way ALERT_N is evaluated. -/
theorem offerEvent_cases (mask : BitVec 17) (k : EventKind) (sq : Option (BitVec 32)) (l : Option Line)
    (d : BitVec 16) (q : EventQueue) :
    (q.queue.length < Config.queueSize ∧ offerEvent mask k sq l d q =
      ⟨q.queue ++ [⟨q.counter, k, sq, l, d⟩], q.lost, q.counter + 1,
        alertCondition (q.queue ++ [⟨q.counter, k, sq, l, d⟩]) q.lost mask⟩) ∨
    (Config.queueSize ≤ q.queue.length ∧ offerEvent mask k sq l d q =
      ⟨q.queue, min (q.lost + 1) Config.lostMax, q.counter,
        alertCondition q.queue (min (q.lost + 1) Config.lostMax) mask⟩) := by
  by_cases h : q.queue.length < Config.queueSize
  · exact Or.inl ⟨h, by simp [offerEvent, evaluateAlert, h]⟩
  · exact Or.inr ⟨not_lt.mp h, by simp [offerEvent, evaluateAlert, h]⟩

/-- After an offer ALERT_N is what its condition says. -/
theorem offerEvent_alert (mask : BitVec 17) (k : EventKind) (sq : Option (BitVec 32)) (l : Option Line)
    (d : BitVec 16) (q : EventQueue) :
    (offerEvent mask k sq l d q).alert =
      alertCondition (offerEvent mask k sq l d q).queue (offerEvent mask k sq l d q).lost mask := rfl

theorem offerEvent_queue_le (mask : BitVec 17) (k : EventKind) (sq : Option (BitVec 32)) (l : Option Line)
    (d : BitVec 16) (q : EventQueue) (h : q.queue.length ≤ Config.queueSize) :
    (offerEvent mask k sq l d q).queue.length ≤ Config.queueSize := by
  rcases offerEvent_cases mask k sq l d q with ⟨h1, e⟩ | ⟨h1, e⟩
  · simp [e]; omega
  · simpa [e] using h

theorem offerEvent_lost_le (mask : BitVec 17) (k : EventKind) (sq : Option (BitVec 32)) (l : Option Line)
    (d : BitVec 16) (q : EventQueue) (h : q.lost ≤ Config.lostMax) :
    (offerEvent mask k sq l d q).lost ≤ Config.lostMax := by
  rcases offerEvent_cases mask k sq l d q with ⟨h1, e⟩ | ⟨h1, e⟩
  · simpa [e] using h
  · simp [e]

/-- The condition of ALERT_N in words. -/
theorem alertCondition_iff (q : List Event) (lost : Nat) (mask : BitVec 17) :
    alertCondition q lost mask = true ↔ (∃ e ∈ q, mask.getLsbD e.kind.code = true) ∨ lost ≠ 0 := by
  simp [alertCondition]

/-- `Safety.posted` is what `postEvent` leaves. -/
theorem postEvent_posted (k : EventKind) (sq : Option (BitVec 32)) (l : Option Line) (n : Nat) (s : State) :
    (postEvent k sq l (detail n) s).eq = Safety.posted s k sq l n := rfl

end Sys2Proof.Machine
end

