-- ==== Sys2Proof/Laws/Frames.lean ====
section
/-! SUPPORT. What the taking of a frame can do (10 R153 to R155). -/

namespace Sys2Proof.Machine

variable {code : Byte} {n : Nat} {f : Frame} {s : State}
  {act : State → Host.Outcome State Fault Refusal}

/-- A frame that is not taken ends and does nothing else. -/
theorem onFrame_notTaken (h : frameTaken s = false) : onFrame code n f s act = .next (closeFrame s) := by
  simp [onFrame, h]

/-- A frame that fails check 1 or 3. -/
theorem onFrame_bad (h : frameTaken s = true) (hf : Config.frameBytes < f.tail.length + 2 ∨ f.tail.length < n) :
    onFrame code n f s act = answerStatus code f .BAD_FRAME (closeFrame s) := by
  simp [onFrame, h, frameTooLong, hf]

/-- A frame that passes checks 1 and 3. -/
theorem onFrame_whole (h : frameTaken s = true) (h1 : n ≤ f.tail.length)
    (h2 : f.tail.length + 2 ≤ Config.frameBytes) : onFrame code n f s act = act (closeFrame s) := by
  have h3 : ¬ (Config.frameBytes < f.tail.length + 2 ∨ f.tail.length < n) := by omega
  simp only [onFrame, h, frameTooLong, Bool.not_true, Bool.false_eq_true, if_false, Bool.or_eq_true,
    decide_eq_true_eq, if_neg h3]

/-- One of the three happens. -/
theorem onFrame_cases (code : Byte) (n : Nat) (f : Frame) (s : State)
    (act : State → Host.Outcome State Fault Refusal) :
    (frameTaken s = false ∧ onFrame code n f s act = .next (closeFrame s)) ∨
    (frameTaken s = true ∧ onFrame code n f s act = answerStatus code f .BAD_FRAME (closeFrame s)) ∨
    (frameTaken s = true ∧ onFrame code n f s act = act (closeFrame s)) := by
  cases h : frameTaken s with
  | false => exact Or.inl ⟨rfl, onFrame_notTaken h⟩
  | true =>
    by_cases hf : Config.frameBytes < f.tail.length + 2 ∨ f.tail.length < n
    · exact Or.inr (Or.inl ⟨rfl, onFrame_bad h hf⟩)
    · rw [not_or, not_lt, not_lt] at hf
      exact Or.inr (Or.inr ⟨rfl, onFrame_whole h hf.2 hf.1⟩)

theorem answerOk_eq (code : Byte) (f : Frame) (bs : List Byte) (s : State) :
    answerOk code f bs s = .next { s with mp := { s.mp with reply := ⟨f.seq, code, .OK, none, resultOf bs⟩ } } := rfl

theorem answerStatus_eq (code : Byte) (f : Frame) (st : ReplyStatus) (s : State) :
    answerStatus code f st s = .next { s with mp := { s.mp with reply := ⟨f.seq, code, st, none, resultOf []⟩ } } := rfl

theorem answerRefused_eq (code : Byte) (f : Frame) (r : Reason) (s : State) :
    answerRefused code f r s =
      .next { s with mp := { s.mp with reply := ⟨f.seq, code, .REFUSED, some r, resultOf []⟩ } } := rfl

end Sys2Proof.Machine
end

