-- ==== Sys2Proof/Laws/PerInstr.lean ====
section
/-! SUPPORT. Per command: a well-formed frame, written out and read again, is the same command (10 R153, R154 and
section 10.3); the rows that are no frames write none. -/

namespace Sys2Proof.Laws.FrameRoundTrip

/-- The frame of a well-formed command, read again, is the command. -/
def Statement (i : Instr) : Prop :=
  i.wellFormed = true → ∀ bits bytes, encodeFrame i = some (bits, bytes) →
    decodeFrame bits bytes (upstreamFirstOf i) = some i

/-- A frame of at most 24 whole bytes passes check 1 of 10 R154. -/
theorem goodBitCount (f : Frame) (h : f.fits = true) : badBitCount (8 * (f.tail.length + 2)) = false := by
  have h := of_decide_eq_true h
  simp only [Config.frameBytes] at h
  have h1 : ¬ 8 * (f.tail.length + 2) < 16 := by omega
  have h2 : 8 * (f.tail.length + 2) % 8 = 0 := by omega
  have h3 : ¬ 8 * 24 < 8 * (f.tail.length + 2) := by omega
  simp [badBitCount, Config.frameBytes, h1, h2, h3]

/-- A whole frame of a code that `commandOf` knows is read as its command. -/
theorem known {code : Byte} {f : Frame} {b : Bool} {i : Instr} (hc : commandOf code f b = some i)
    (hf : f.fits = true) : decodeFrame (frameOf code f).1 (frameOf code f).2 b = some i := by
  obtain ⟨seq, tail⟩ := f
  simp [decodeFrame, frameOf, goodBitCount _ hf, hc]

/-- Whether a byte is a command code does not depend on the rest of the frame. -/
theorem commandOf_isSome (code : Byte) (f : Frame) (b : Bool) :
    (commandOf code f b).isSome = isCommandCode code := by
  unfold isCommandCode commandOf
  split <;> rfl

/-- A row that is no frame satisfies the statement: it writes nothing. -/
theorem noFrame {i : Instr} (h : encodeFrame i = none) : Statement i := by
  intro _ bits bytes hb
  simp [h] at hb

/-- A row of a known code satisfies the statement. -/
theorem ofKnown {i : Instr} (code : Byte) (f : Frame) (he : encodeFrame i = some (frameOf code f))
    (hc : commandOf code f (upstreamFirstOf i) = some i) (hw : i.wellFormed = true → f.fits = true) : Statement i := by
  intro h bits bytes hb
  rw [he] at hb
  simp only [Option.some.injEq] at hb
  have := known hc (hw h)
  rwa [hb] at this

theorem rpy (f : Frame) : Statement (.rpy f) := ofKnown 0x01 f rfl rfl id

theorem sts (f : Frame) : Statement (.sts f) := ofKnown 0x02 f rfl rfl id

theorem rcf (f : Frame) : Statement (.rcf f) := ofKnown 0x03 f rfl rfl id

theorem wcf (f : Frame) : Statement (.wcf f) := ofKnown 0x04 f rfl rfl id

theorem rgi (f : Frame) : Statement (.rgi f) := ofKnown 0x10 f rfl rfl id

theorem rgr (f : Frame) : Statement (.rgr f) := ofKnown 0x11 f rfl rfl id

theorem rgm (f : Frame) : Statement (.rgm f) := ofKnown 0x12 f rfl rfl id

theorem rgq (f : Frame) : Statement (.rgq f) := ofKnown 0x13 f rfl rfl id

theorem mrk (f : Frame) : Statement (.mrk f) := ofKnown 0x20 f rfl rfl id

theorem cmt (f : Frame) : Statement (.cmt f) := ofKnown 0x21 f rfl rfl id

theorem rbk (f : Frame) : Statement (.rbk f) := ofKnown 0x22 f rfl rfl id

theorem abn (f : Frame) : Statement (.abn f) := ofKnown 0x23 f rfl rfl id

theorem dsc (f : Frame) : Statement (.dsc f) := ofKnown 0x24 f rfl rfl id

theorem epq (f : Frame) : Statement (.epq f) := ofKnown 0x25 f rfl rfl id

theorem jst (f : Frame) : Statement (.jst f) := ofKnown 0x30 f rfl rfl id

theorem jrq (f : Frame) : Statement (.jrq f) := ofKnown 0x31 f rfl rfl id

theorem jrd (f : Frame) : Statement (.jrd f) := ofKnown 0x32 f rfl rfl id

theorem evp (f : Frame) : Statement (.evp f) := ofKnown 0x38 f rfl rfl id

theorem wts (f : Frame) : Statement (.wts f) := ofKnown 0x40 f rfl rfl id

theorem wtq (f : Frame) : Statement (.wtq f) := ofKnown 0x41 f rfl rfl id

theorem rls (f : Frame) : Statement (.rls f) := ofKnown 0x42 f rfl rfl id

theorem rlq (f : Frame) : Statement (.rlq f) := ofKnown 0x43 f rfl rfl id

theorem drs (f : Frame) (b : Bool) : Statement (.drs f b) := ofKnown 0x5A f rfl rfl id

theorem badFrame (bits : Nat) (bytes : List Byte) : Statement (.badFrame bits bytes) := by
  intro h n l hb
  simp only [encodeFrame, Option.some.injEq, Prod.mk.injEq] at hb
  obtain ⟨rfl, rfl⟩ := hb
  simp only [Instr.wellFormed, Bool.and_eq_true, bne_iff_ne] at h
  simp [decodeFrame, h.1.1, h.1.2]

theorem unknownCommand (code : Byte) (f : Frame) : Statement (.unknownCommand code f) := by
  intro h n l hb
  simp only [encodeFrame, Option.some.injEq] at hb
  simp only [Instr.wellFormed, Bool.and_eq_true, Bool.not_eq_true'] at h
  obtain ⟨seq, tail⟩ := f
  have hn : ∀ b, commandOf code ⟨seq, tail⟩ b = none := fun b => by
    have := commandOf_isSome code ⟨seq, tail⟩ b
    rw [h.2] at this
    simpa using this
  simp only [frameOf, Prod.mk.injEq] at hb
  obtain ⟨rfl, rfl⟩ := hb
  simp [decodeFrame, goodBitCount _ h.1, hn]

theorem powerOn : Statement (.powerOn) := noFrame rfl

theorem rstNReset : Statement (.rstNReset) := noFrame rfl

theorem resetEnd (b : Bool) : Statement (.resetEnd b) := noFrame rfl

theorem controlLineLevelChange (l : ControlLine) (b : Bool) : Statement (.controlLineLevelChange l b) := noFrame rfl

theorem markNFallingEdge : Statement (.markNFallingEdge) := noFrame rfl

theorem undoNFallingEdge : Statement (.undoNFallingEdge) := noFrame rfl

theorem filterReArm (l : ControlLine) : Statement (.filterReArm l) := noFrame rfl

theorem upstreamLinkDown : Statement (.upstreamLinkDown) := noFrame rfl

theorem upstreamLinkUp : Statement (.upstreamLinkUp) := noFrame rfl

theorem downstreamLinkDown : Statement (.downstreamLinkDown) := noFrame rfl

theorem downstreamLinkUp : Statement (.downstreamLinkUp) := noFrame rfl

theorem readRequest (t : HostTag) (l : Line) : Statement (.readRequest t l) := noFrame rfl

theorem writeRequest (t : HostTag) (l : Line) (m : Mask) (d : Data) : Statement (.writeRequest t l m d) := noFrame rfl

theorem readReply (t : DownTag) (r : ReadResult) : Statement (.readReply t r) := noFrame rfl

theorem writeReply (t : DownTag) (r : WriteResult) : Statement (.writeReply t r) := noFrame rfl

theorem downstreamTimeout (t : DownTag) : Statement (.downstreamTimeout t) := noFrame rfl

theorem holdExpiry (t : HostTag) : Statement (.holdExpiry t) := noFrame rfl

theorem seenMarkExpiry (k : Fin 2) (n : Fin 3) : Statement (.seenMarkExpiry k n) := noFrame rfl

theorem scrubberVisit : Statement (.scrubberVisit) := noFrame rfl

theorem drainCompletion : Statement (.drainCompletion) := noFrame rfl

theorem rollbackEnd : Statement (.rollbackEnd) := noFrame rfl

theorem captureDecision (t : HostTag) : Statement (.captureDecision t) := noFrame rfl

theorem forwardReadIssue (t : HostTag) : Statement (.forwardReadIssue t) := noFrame rfl

theorem restoreWriteIssue : Statement (.restoreWriteIssue) := noFrame rfl

theorem csNFallingEdge : Statement (.csNFallingEdge) := noFrame rfl

end Sys2Proof.Laws.FrameRoundTrip
end

