-- ==== Sys2Proof/Laws/Results.lean ====
section
/-! SUPPORT. Reading back the fields of a result: a number written as n bytes reads as itself (10 R163). -/

namespace Sys2Proof.Machine

@[simp] theorem length_leBytes (n v : Nat) : (leBytes n v).length = n := by
  induction n generalizing v with
  | zero => rfl
  | succ n ih => simp [leBytes, ih]

theorem leNat_leBytes (n v : Nat) : leNat (leBytes n v) = v % 256 ^ n := by
  induction n generalizing v with
  | zero => simp [leBytes, leNat, Nat.mod_one]
  | succ n ih =>
    have h8 : (BitVec.ofNat 8 v).toNat = v % 256 := by simp
    rw [leBytes, leNat, ih, h8, pow_succ, Nat.mul_comm (256 ^ n), Nat.mod_mul]

theorem leNat_leBytes_of_lt {n v : Nat} (h : v < 256 ^ n) : leNat (leBytes n v) = v := by
  rw [leNat_leBytes, Nat.mod_eq_of_lt h]

theorem leNat_append (a b : List Byte) : leNat (a ++ b) = leNat a + 256 ^ a.length * leNat b := by
  induction a with
  | nil => simp [leNat]
  | cons x r ih => simp only [List.cons_append, leNat, ih, List.length_cons, Nat.pow_succ]; ring

theorem leNat_zeros (n : Nat) : leNat (List.replicate n (0 : Byte)) = 0 := by
  induction n with
  | zero => rfl
  | succ n ih =>
    rw [List.replicate_succ, leNat, ih]
    rfl

/-- The bytes of a result: those given, then zeros. -/
theorem toList_resultOf (bs : List Byte) (h : bs.length ≤ 16) :
    (resultOf bs).toList = bs ++ List.replicate (16 - bs.length) 0 := by
  apply List.ext_getElem
  · simp; omega
  · intro i h1 h2
    simp only [resultOf, Vector.getElem_toList, Vector.getElem_ofFn]
    by_cases hi : i < bs.length
    · simp [List.getElem_append_left hi, hi]
    · rw [List.getElem_append_right (by omega)]
      simp [List.getD, List.getElem?_eq_none (by omega : bs.length ≤ i)]

/-- The field of a result that begins after the bytes before it. -/
theorem field_resultOf (t : State) (a b c : List Byte) (h : t.mp.reply.result = resultOf (a ++ b ++ c))
    (hl : (a ++ b ++ c).length ≤ 16) : Safety.field t a.length b.length = leNat b := by
  simp only [Safety.field, h]
  rw [toList_resultOf _ hl, List.append_assoc, List.append_assoc, List.drop_left, List.take_left]

/-- An empty result is all zero. -/
theorem resultOf_nil : resultOf [] = Safety.noResult := by decide

end Sys2Proof.Machine
end

