-- ==== Sys2Proof/Tests/Slice0.lean ====
section
/-! SUPPORT. Tests on single steps, with results taken from the spec's rules and from the worked sequences of spec 11;
the ill-formed terms that WellFormed refuses; and, for every statement with hypotheses, a state and operands that meet
them (`test_witness_…`). -/

-- One theorem at a time: the tests of this file would otherwise ask for a thread each.
set_option Elab.async false

namespace Sys2Proof.Tests

open Sys2Proof.Machine Sys2Proof.Safety

/-! ## Small states -/

/-- Both links UP, nothing else done. -/
def up : State := { State.reset with upLink := .UP, dp := ⟨.UP, [], [], []⟩ }

/-- The regions of section 11.1: slot 0 JOURNAL, 65,536 to 81,919; slot 1 FENCE, 131,072 to 131,135. -/
def laid : State :=
  { up with regions := (up.regions.set 0 ⟨true, 65536, 16384, .JOURNAL, 0⟩).set 1 ⟨true, 131072, 64, .FENCE, 0⟩ }

/-- An epoch of level 1 with sequence and identifier 1. -/
def epoch1 : Epoch := ⟨1, 1, [1], 0, 0, .OPEN, none, false, .MGMT, 0⟩

/-- A nested epoch of level 2 with sequence and identifier 2. -/
def epoch2 : Epoch := ⟨2, 2, [2], 1, 0, .OPEN, none, false, .MGMT, 0⟩

/-- One epoch on the stack, nothing captured. -/
def opened : State :=
  { laid with
    ec := ⟨[epoch1], 1, none, .IDLE, false⟩
    ip := ⟨[2, 3, 4, 5, 6, 7, 8, 9, 10, 11, 12, 13, 14, 15], []⟩ }

/-- One record HELD in slot 0, of line 65,546, captured by epoch 1. -/
def held1 : State :=
  { opened with
    ec := { opened.ec with stack := [{ epoch1 with runLength := 1 }] }
    jr := ⟨1, 0, false, [(0, ⟨65546, 0, 1, 1, .HELD, some 5⟩)], true⟩
    stamps := [(10, 1)] }

/-- `held1` with its epoch DRAINING. -/
def draining (p : Pending) : State :=
  { held1 with ec := { held1.ec with
    stack := [{ epoch1 with runLength := 1, state := .DRAINING, pending := some p }]
    closingOrigin := some .MGMT } }

/-- `held1` with its epoch RESTORING and the restore write of slot 0 outstanding on tag 0. -/
def restoring : State :=
  { held1 with
    ec := { held1.ec with
      stack := [{ epoch1 with runLength := 1, state := .RESTORING }]
      sequencer := .WRITING 0 }
    jr := ⟨1, 0, false, [(0, ⟨65546, 0, 1, 1, .RESTORING, some 5⟩)], true⟩
    lht := [(65546, [.restore 0])]
    dp := ⟨.UP, [(0, ⟨.RESTORE_WRITE, .sequencer, 65546, 500, none, none⟩)], [], []⟩ }

/-- A request of host tag 3 for line 7, forwarded on tag 0. -/
def forwarded (r : Request) (p : Purpose) (s : State) : State :=
  { s with
    contexts := [(3, ⟨r, 7, .FORWARDED, none, none, some 0⟩)]
    lht := [(7, [.host 3])]
    dp := ⟨.UP, [(0, ⟨p, .context 3, 7, 500, none, none⟩)], [], []⟩ }

/-- A write of host tag 3 to line 65,546 CAPTURING on tag 0, its record RESERVED in slot 0. -/
def capturing : State :=
  { held1 with
    jr := ⟨1, 0, false, [(0, ⟨65546, 0, 1, 1, .RESERVED, none⟩)], true⟩
    contexts := [(3, ⟨.WRITE 1 2, 65546, .CAPTURING, some 0, some 0, some 0⟩)]
    lht := [(65546, [.host 3])]
    dp := ⟨.UP, [(0, ⟨.CAPTURE_READ, .context 3, 65546, 500, none, none⟩)], [], []⟩ }

/-- A full ring of 2,048 records that is one epoch's run (section 11.5); its records are left out. -/
def full (p : Policy) : State :=
  { opened with
    ec := { opened.ec with stack := [{ epoch1 with runStart := 700, runLength := 2048 }] }
    jr := ⟨700, 700, true, [], false⟩
    cfg := { opened.cfg with capturePolicy := p } }

/-- A frame's bytes from byte 2 on, with command sequence 7. -/
def frame (l : List Nat) : Frame := ⟨7, l.map (BitVec.ofNat 8)⟩

/-- What holds of the state a command answers. -/
def after (o : Host.Outcome State Fault Refusal) (p : State → Bool) : Bool :=
  match o with
  | .next t => p t
  | _ => false

/-! ## WellFormed refuses -/

theorem test_wf_frame_too_long : (Instr.rpy ⟨0, List.replicate 23 0⟩).wellFormed = false := by decide
theorem test_wf_frame_longest : (Instr.rpy ⟨0, List.replicate 22 0⟩).wellFormed = true := by decide
theorem test_wf_drs_too_long : (Instr.drs ⟨0, List.replicate 23 0⟩ true).wellFormed = false := by decide
theorem test_wf_bad_frame_without_bits : (Instr.badFrame 0 []).wellFormed = false := by decide
theorem test_wf_bad_frame_of_good_bits : (Instr.badFrame 16 [1, 2]).wellFormed = false := by decide
theorem test_wf_bad_frame_of_other_bytes : (Instr.badFrame 12 [1, 2]).wellFormed = false := by decide
theorem test_wf_unknown_command_known : (Instr.unknownCommand 0x02 ⟨0, []⟩).wellFormed = false := by decide
theorem test_wf_unknown_command_too_long :
    (Instr.unknownCommand 0x99 ⟨0, List.replicate 23 0⟩).wellFormed = false := by decide

/-! ## Frames read bit by bit (10 section 10.3, R154) -/

theorem test_decode_sts : decodeFrame 16 [0x02, 7] false = some (.sts ⟨7, []⟩) := by decide
theorem test_decode_wcf :
    decodeFrame 48 [0x04, 4, 3, 0x00, 0x02, 0x00] false = some (.wcf ⟨4, [3, 0x00, 0x02, 0x00]⟩) := by decide
theorem test_decode_rgi : decodeFrame 88 [0x10, 6, 0, 0x00, 0x00, 0x01, 0x00, 0x00, 0x00, 0x40, 0] false =
    some (.rgi ⟨6, [0, 0x00, 0x00, 0x01, 0x00, 0x00, 0x00, 0x40, 0]⟩) := by decide
theorem test_decode_mrk : decodeFrame 160 (0x20 :: 9 :: List.replicate 18 0) false =
    some (.mrk ⟨9, List.replicate 18 0⟩) := by decide
theorem test_decode_jrd : decodeFrame 40 [0x32, 1, 5, 0, 15] false = some (.jrd ⟨1, [5, 0, 15]⟩) := by decide
theorem test_decode_evp : decodeFrame 16 [0x38, 2] false = some (.evp ⟨2, []⟩) := by decide
theorem test_decode_rlq : decodeFrame 24 [0x43, 2, 1] false = some (.rlq ⟨2, [1]⟩) := by decide
theorem test_decode_drs : decodeFrame 16 [0x5A, 0] true = some (.drs ⟨0, []⟩ true) := by decide
theorem test_decode_seventeen_bits : decodeFrame 17 [0x02, 7] false = some (.badFrame 17 [0x02, 7]) := by decide
theorem test_decode_unknown : decodeFrame 16 [0x05, 7] false = some (.unknownCommand 0x05 ⟨7, []⟩) := by decide

/-! ## Management frames -/

-- R155: RPY leaves the record; the next falling edge shows it.
theorem test_rpy_keeps_record :
    after (exec (.rpy (frame [])) { up with mp := ⟨⟨5, 0x02, .OK, none, noResult⟩, none⟩ })
      (fun t => t.mp.reply.sequenceEcho = 5 && t.mp.frame = none) = true := by decide
-- section 11.1, frame 1: depth 0, both links UP (bits 6 and 7), 15 free.
theorem test_sts_after_bring_up :
    after (exec (.sts (frame [])) up) (fun t => field t 0 1 = 192 && field t 1 1 = 15) = true := by decide
-- R157: DOWN_TIMEOUT is item 2 and resets to 500.
theorem test_rcf_down_timeout :
    after (exec (.rcf (frame [2])) up) (fun t => field t 0 1 = 2 && field t 1 3 = 500) = true := by decide
-- section 11.1, frame 4: LOW_WATER 512, free 2048, low-armed stays set.
theorem test_wcf_low_water :
    after (exec (.wcf (frame [3, 0, 2, 0])) up) (fun t => t.cfg.lowWater = 512 && t.jr.lowArmed && t.eq.queue = []) =
      true := by decide
-- R158: DOWN_TIMEOUT 0 is rejected.
theorem test_wcf_down_timeout_zero :
    after (exec (.wcf (frame [2, 0, 0, 0])) up) (fun t => t.mp.reply.status = .BAD_ARGUMENT && t.cfg.downTimeout = 500) =
      true := by decide
-- section 11.1, frame 6: base 65,536, length 16,384, JOURNAL.
theorem test_rgi_slot_0 :
    after (exec (.rgi (frame [0, 0, 0, 1, 0, 0, 0, 64, 0])) up)
      (fun t => t.regions[0] = ⟨true, 65536, 16384, .JOURNAL, 0⟩ && t.mp.reply.status = .OK) = true := by decide
-- R4: one line in common.
theorem test_rgi_overlap :
    after (exec (.rgi (frame [2, 63, 0, 2, 0, 0, 2, 0, 2])) laid)
      (fun t => t.mp.reply.reason = some .OVERLAP && t.regions[2] = .clear) = true := by decide
theorem test_rgr_clears :
    after (exec (.rgr (frame [1])) laid) (fun t => t.regions[1] = ⟨false, 0, 0, .PASS, 0⟩) = true := by decide
theorem test_rgm_mode :
    after (exec (.rgm (frame [1, 2])) laid) (fun t => t.regions[1].mode = .PASS && t.regions[1].length = 64) = true := by
  decide
-- R7, section 10.7: installed and mode FENCE give 1 + 2.
theorem test_rgq_slot_1 :
    after (exec (.rgq (frame [1])) opened)
      (fun t => field t 0 1 = 3 && field t 1 5 = 131072 && field t 6 2 = 64 && field t 8 4 = 0) = true := by decide
-- section 11.3, step 1.
theorem test_mrk_first :
    after (exec (.mrk (frame [])) laid)
      (fun t => t.ec.stack = [epoch1] && field t 0 4 = 1 && field t 4 1 = 1 && field t 5 1 = 1) = true := by decide
-- R27: HALTED before DEPTH.
theorem test_mrk_refused_halted :
    after (exec (.mrk (frame [])) { opened with ec := { opened.ec with stack := [{ epoch1 with state := .HALTED }] } })
      (fun t => t.mp.reply.status = .REFUSED && t.mp.reply.reason = some .HALTED && t.eq.queue = []) = true := by decide
-- section 11.3, step 8: COMMITTED with sequence 2 and detail 1; the child's identifier joins.
theorem test_cmt_merges :
    after (exec (.cmt (frame [])) { held1 with ec := { held1.ec with stack := [epoch2, { epoch1 with runLength := 1 }] } })
      (fun t => t.ec.stack = [{ epoch1 with runLength := 1, ids := [1, 2] }] &&
        t.eq.queue = [⟨0, .COMMITTED, some 2, none, 1⟩]) = true := by decide
-- section 11.6, step 1: the newest record is written back with a full mask.
theorem test_rbk_writes_newest :
    after (exec (.rbk (frame [])) held1)
      (fun t => t.downTx = [.write 0 65546 (BitVec.allOnes 64) 5] && t.ec.sequencer = .WRITING 0) = true := by decide +kernel
-- section 11.6, the ABN of its last paragraph: a tail release, ABANDONED with the run length.
theorem test_abn_level_1 :
    after (exec (.abn (frame [])) held1)
      (fun t => t.jr.tail = 1 && t.jr.head = 1 && t.jr.records = [] && t.eq.queue = [⟨0, .ABANDONED, some 1, none, 1⟩]) =
      true := by decide
-- R88: innermost first.
theorem test_dsc_two_epochs :
    after (exec (.dsc (frame [])) { held1 with ec := { held1.ec with stack := [epoch2, { epoch1 with runLength := 1 }] } })
      (fun t => t.ec.stack = [] && t.ip.retiring = [⟨2, 1⟩, ⟨1, 1⟩] &&
        t.eq.queue.map (fun e => (e.epochSequence, e.detail)) = [(some 2, 0), (some 1, 1)]) = true := by decide
-- section 10.7: present, level 1, one identifier: 1 + 2 + 16.
theorem test_epq_level_1 :
    after (exec (.epq (frame [1])) held1) (fun t => field t 0 1 = 19 && field t 3 4 = 1 && field t 9 2 = 1) = true := by
  decide
theorem test_jst_one_record :
    after (exec (.jst (frame [])) held1) (fun t => field t 0 2 = 1 && field t 4 2 = 1 && field t 6 2 = 2047) = true := by
  decide
-- section 10.7: present, HELD (2), level 1: 1 + 4 + 16.
theorem test_jrq_slot_0 :
    after (exec (.jrq (frame [0, 0])) held1) (fun t => field t 0 1 = 21 && field t 1 5 = 65546) = true := by decide
theorem test_jrq_slot_out_of_use :
    after (exec (.jrq (frame [1, 0])) held1) (fun t => t.mp.reply.result = noResult) = true := by decide
theorem test_jrd_word_0 :
    after (exec (.jrd (frame [0, 0, 0])) held1) (fun t => field t 0 1 = 1 && field t 1 4 = 5) = true := by decide +kernel
-- section 11.1, frame 2: the LINK_CHANGE event with sequence 0, one left.
theorem test_evp_link_change :
    after (exec (.evp (frame [])) { up with eq :=
      ⟨[⟨0, .LINK_CHANGE, none, none, 256⟩, ⟨1, .LINK_CHANGE, none, none, 257⟩], 3, 2, true⟩ })
      (fun t => bits t 0 0 5 = 16 && field t 1 2 = 0 && field t 12 2 = 256 && field t 14 1 = 3 && field t 15 1 = 1 &&
        t.eq.alert && t.eq.lost = 0) = true := by decide
-- section 11.7, watch 2: line D, word 2, mask 0x000000FF.
theorem test_wts_watch_2 :
    after (exec (.wts (frame [2, 1, 1, 0, 3, 0, 0, 2, 1, 0, 0, 0, 0xFF, 0, 0, 0])) up)
      (fun t => t.wu.watches[2] = ⟨true, 196609, 2, 1, 0xFF⟩) = true := by decide
theorem test_wtq_watch_2 :
    after (exec (.wtq (frame [2])) { up with wu := { up.wu with
      watches := up.wu.watches.set 2 ⟨true, 196609, 2, 1, 0xFF⟩ } })
      (fun t => field t 0 1 = 33 && field t 1 5 = 196609 && field t 10 4 = 255) = true := by decide
-- section 11.7, rule 1: members 1 and 2, window 5 ms, action CMT.
theorem test_rls_rule_1 :
    after (exec (.rls (frame [1, 1, 2, 1, 2, 0, 5, 0, 1])) up)
      (fun t => t.wu.rules[1] = ⟨true, [⟨1, none⟩, ⟨2, none⟩], 5, .CMT, false⟩) = true := by decide
-- R140: a watch named twice.
theorem test_rls_repeated_member :
    after (exec (.rls (frame [1, 1, 2, 1, 1, 0, 5, 0, 1])) up) (fun t => t.mp.reply.status = .BAD_ARGUMENT) = true := by
  decide
-- R141: 4,001 µs to expiry read as 5 ms.
theorem test_rlq_rounds_up :
    after (exec (.rlq (frame [1])) { up with wu := { up.wu with
      rules := up.wu.rules.set 1 ⟨true, [⟨1, some 4001⟩, ⟨2, none⟩], 5, .CMT, false⟩ } })
      (fun t => field t 5 2 = 5 && field t 7 2 = 0 && field t 4 1 = 1 && field t 1 1 = 9) = true := by decide
-- R161: the record is left in its reset state; section 11.1: the LINK_CHANGE events take sequences 0 and 1.
theorem test_drs_links_shown :
    after (exec (.drs (frame []) true) { held1 with pins := { held1.pins with upIndication := true, downIndication := true } })
      (fun t => t.ec.stack = [] && t.mp.reply = .initial && t.eq.queue.map (·.detail) = [256, 257] && t.dp.link = .UP) =
      true := by decide
theorem test_bad_frame_of_9_bits :
    after (exec (.badFrame 9 [0x02]) up)
      (fun t => t.mp.reply.status = .BAD_FRAME && t.mp.reply.commandCode = 2 && t.mp.reply.sequenceEcho = 0) = true := by
  decide
theorem test_unknown_command :
    after (exec (.unknownCommand 0x99 (frame [])) up)
      (fun t => t.mp.reply.status = .UNKNOWN && t.mp.reply.commandCode = 0x99 && t.mp.reply.sequenceEcho = 7) = true := by
  decide

/-! ## Resets, control lines, CS_N -/

theorem test_power_on :
    after (exec .powerOn held1) (fun t => t.held && t.ec.stack = [] && t.stamps = [] && t.cfg.holdLimit = 10000) = true := by
  decide
theorem test_rst_n_reset : after (exec .rstNReset held1) (fun t => t.held && t.jr.head = 0 && t.ip.free.length = 15) = true := by
  decide
theorem test_reset_end_link_shown :
    after (exec (.resetEnd false) { State.reset with
      held := true, pins := { State.reset.pins with downIndication := true } })
      (fun t => t.dp.link = .UP && t.upLink = .DOWN && t.eq.queue = [⟨0, .LINK_CHANGE, none, none, 257⟩]) = true := by decide
theorem test_line_falls :
    after (exec (.controlLineLevelChange .MARK_N false) up) (fun t => t.pins.mark = ⟨false, .FALLING, 0⟩) = true := by decide
-- R159, R31: the line's MRK, with origin MARK_LINE in the OPENED detail: level 1, identifier 1, origin 1.
theorem test_mark_line :
    after (exec .markNFallingEdge { up with now := 1, pins := { up.pins with mark := ⟨false, .FALLING, 0⟩ } })
      (fun t => t.eq.queue = [⟨0, .OPENED, some 1, none, 1 + 16 + 256⟩] && t.pins.mark.state = .LOW) = true := by decide
-- R27, R28: an RBK on an empty stack: operation 2, origin 2, reason EMPTY 3.
theorem test_undo_line_empty :
    after (exec .undoNFallingEdge { up with now := 1, pins := { up.pins with undo := ⟨false, .FALLING, 0⟩ } })
      (fun t => t.eq.queue = [⟨0, .REFUSED, none, none, 2 + 32 + 768⟩]) = true := by decide
theorem test_filter_re_arm :
    after (exec (.filterReArm .UNDO_N) { up with now := 1, pins := { up.pins with undo := ⟨true, .RISING, 0⟩ } })
      (fun t => t.pins.undo = ⟨true, .HIGH, 1⟩) = true := by decide
theorem test_cs_n_latches_record :
    after (exec .csNFallingEdge { up with mp := ⟨⟨5, 0x02, .OK, none, noResult⟩, none⟩ })
      (fun t => misoByte t 0 = some 5 && misoByte t 1 = some 2 && misoByte t 2 = some 1 && misoByte t 20 = some 0) =
      true := by decide

/-! ## Links -/

-- R126: the forwarded read stays as an orphan.
theorem test_upstream_down_orphans :
    after (exec .upstreamLinkDown (forwarded .READ .FORWARD_READ laid))
      (fun t => t.contexts = [] && t.lht = [(7, [.orphan 0])] && t.dp.tracker.map (·.2.owner) = [.orphaned]) = true := by
  decide
theorem test_upstream_up :
    after (exec .upstreamLinkUp State.reset) (fun t => t.upLink = .UP && t.eq.queue.map (·.detail) = [256]) = true := by decide
-- section 11.6, step 3: HALTED carries line, slot and cause LINK_DOWN (2).
theorem test_downstream_down_halts :
    after (exec .downstreamLinkDown restoring)
      (fun t => t.ec.stack.map (·.state) = [.HALTED] && t.dp.tracker = [] &&
        t.eq.queue.map (fun e => (e.kind, e.detail)) = [(.LINK_CHANGE, 1), (.HALTED, 8192)]) = true := by decide
theorem test_downstream_up :
    after (exec .downstreamLinkUp State.reset) (fun t => t.dp.link = .UP && t.downTx = []) = true := by decide
theorem test_read_unprotected :
    after (exec (.readRequest 3 196608) opened) (fun t => t.downTx = [.read 0 196608]) = true := by decide
-- section 11.4, 10 µs: a read of a JOURNAL line during a drain is held; HOLD_LIMIT is 10,000.
theorem test_read_held :
    after (exec (.readRequest 3 65700) (draining .ROLLBACK))
      (fun t => t.holds = [⟨3, 65700, .OPERATION, some 10000⟩] && t.downTx = []) = true := by decide
-- section 11.3, step 2: stamp 10 becomes 1, slot 0 is reserved, the line is read.
theorem test_write_captured :
    after (exec (.writeRequest 3 65546 0xF 5) opened)
      (fun t => t.stamps = [(10, 1)] && t.jr.head = 1 && t.downTx = [.read 0 65546]) = true := by decide
-- section 11.3, step 7: the stamp is in the id set; forwarded uncaptured.
theorem test_write_captured_already :
    after (exec (.writeRequest 3 65546 0xF 5) held1) (fun t => t.jr.head = 1 && t.downTx = [.write 0 65546 0xF 5]) = true := by
  decide +kernel
-- R41, R73: the record takes the bytes read; the write goes out.
theorem test_read_reply_capture :
    after (exec (.readReply 0 (.OK 9)) capturing)
      (fun t => t.jr.records.map (fun p => (p.2.state, p.2.payload)) = [(.HELD, some 9)] && t.regions[0].count = 1 &&
        t.downTx = [.write 0 65546 1 2]) = true := by decide +kernel
-- R74: VOID, the stamp back to NONE, ERROR.
theorem test_read_reply_capture_error :
    after (exec (.readReply 0 .ERROR) capturing)
      (fun t => t.jr.records.map (·.2.state) = [.VOID] && t.stamps = [] && t.upTx = [⟨3, .WRITE, .ERROR, none⟩]) = true := by
  decide
-- section 11.6, step 9: the run is empty, RESTORED, the identifier retires.
theorem test_write_reply_restores :
    after (exec (.writeReply 0 .OK) restoring)
      (fun t => t.ec.stack = [] && t.jr.head = 0 && t.ip.retiring = [⟨1, 1⟩] &&
        t.eq.queue = [⟨0, .RESTORED, some 1, none, 1⟩]) = true := by decide
theorem test_write_reply_stray :
    after (exec (.writeReply 9 .OK) laid) (fun t => t.eq.queue = [⟨0, .LATE_RESPONSE, none, none, 9 + 256⟩]) = true := by decide
theorem test_timeout_quarantines :
    after (exec (.downstreamTimeout 0) { forwarded .READ .FORWARD_READ laid with now := 500 })
      (fun t => t.dp.quarantine = [(0, 7)] && t.upTx = [⟨3, .READ, .ERROR, none⟩]) = true := by decide

/-! ## Expiries and the device's own events -/

theorem test_hold_expires :
    after (exec (.holdExpiry 3) { draining .ROLLBACK with
      now := 2010
      contexts := [(3, ⟨.READ, 65700, .HELD, none, none, none⟩)], holds := [⟨3, 65700, .OPERATION, some 2010⟩]
      ec := { (draining .ROLLBACK).ec with sequencer := .WRITING 0
                                           stack := [{ epoch1 with runLength := 1, state := .RESTORING }] } })
      (fun t => t.upTx = [⟨3, .READ, .EXPIRED, none⟩] && t.holds = [] &&
        t.eq.queue = [⟨0, .EXPIRED, some 1, some 65700, 3⟩]) = true := by decide
-- section 11.7, 15 ms: the mark of watch 1 expires.
theorem test_mark_expires :
    after (exec (.seenMarkExpiry 1 0) { up with now := 15000, wu := { up.wu with
      rules := up.wu.rules.set 1 ⟨true, [⟨1, some 15000⟩, ⟨2, some 21000⟩], 5, .CMT, false⟩ } })
      (fun t => t.wu.rules[1].members = [⟨1, none⟩, ⟨2, some 21000⟩]) = true := by decide
-- R138: a renewed mark is not touched by its old expiry, 15 ms.
theorem test_renewed_mark_stays :
    after (exec (.seenMarkExpiry 1 0) { up with now := 15000, wu := { up.wu with
      rules := up.wu.rules.set 1 ⟨true, [⟨1, some 18000⟩], 5, .CMT, false⟩ } })
      (fun t => t.wu.rules[1].members = [⟨1, some 18000⟩]) = true := by decide
theorem test_visit_clears :
    after (exec .scrubberVisit { laid with
      ss := ⟨true, 10, 1, 0⟩, ip := ⟨[2], [⟨1, 1⟩]⟩, stamps := [(10, 1), (11, 1)] })
      (fun t => t.stamps = [(11, 1)] && t.ss.position = 11) = true := by decide
-- section 11.3: at the end of pass 1 the free list has 1 behind.
theorem test_pass_completes :
    after (exec .scrubberVisit { laid with ss := ⟨true, 262143, 1, 0⟩, ip := ⟨[2], [⟨1, 1⟩, ⟨3, 2⟩]⟩ })
      (fun t => t.ip = ⟨[2, 1], [⟨3, 2⟩]⟩ && t.ss.pass = 2 && t.ss.position = 0) = true := by decide
theorem test_drain_completes_commit :
    after (exec .drainCompletion (draining .COMMIT))
      (fun t => t.jr.tail = 1 && t.jr.head = 1 && t.ip.retiring = [⟨1, 1⟩] && t.ss.sweeping) = true := by decide
theorem test_rollback_end :
    after (exec .rollbackEnd { opened with ec := { opened.ec with stack := [{ epoch1 with state := .RESTORING, restored := 4 }] } })
      (fun t => t.ec.stack = [] && t.eq.queue = [⟨0, .RESTORED, some 1, none, 4⟩]) = true := by decide

/-- `opened` with a request of host tag 3 waiting for a tag at the front of its chain. -/
def waiting (r : Request) (line : Line) : State :=
  { opened with
    contexts := [(3, ⟨r, line, .QUEUED, none, none, none⟩)]
    lht := [(line.toNat, [.host 3])]
    dp := { opened.dp with tagWait := [.host 3] } }

theorem test_capture_decision :
    after (exec (.captureDecision 3) (waiting (.WRITE 1 2) 65546))
      (fun t => t.downTx = [.read 0 65546] && t.dp.tagWait = []) = true := by decide
theorem test_forward_read_issue :
    after (exec (.forwardReadIssue 3) (waiting .READ 65546)) (fun t => t.downTx = [.read 0 65546]) = true := by decide
theorem test_restore_write_issue :
    after (exec .restoreWriteIssue { restoring with
      ec := { restoring.ec with sequencer := .PLACED 0 }
      dp := { opened.dp with tagWait := [.restore 0] } })
      (fun t => t.downTx = [.write 0 65546 (BitVec.allOnes 64) 5]) = true := by decide +kernel

/-! ## Witnesses: states and operands that meet the hypotheses of the statements -/

/-- A device that is not held with no frame in progress takes frames. -/
theorem takes {s : State} (h : s.held = false) (hf : s.mp.frame = none) : takesFrames s :=
  ⟨h, fun r => by rw [hf]; exact fun h => nomatch h⟩

/-- An outcome of which something holds is a next state. -/
theorem next_of {o : Host.Outcome State Fault Refusal} (h : after o (fun _ => true) = true) : ∃ t, o = .next t := by
  unfold after at h
  split at h
  · exact ⟨_, rfl⟩
  · exact absurd h (by decide +kernel)

theorem test_witness_StepRunsTheFrontCommand :
    ({ up with pending := [.csNFallingEdge, .powerOn] } : State).pending = [.csNFallingEdge, .powerOn] := rfl
theorem test_witness_CommandsLeaveTheQueue : ∃ t, exec (.writeRequest 3 65546 0xF 5) opened = .next t :=
  next_of (by decide +kernel)
theorem test_witness_FramesReadBack :
    (Instr.drs ⟨1, []⟩ true).wellFormed = true ∧ encodeFrame (.drs ⟨1, []⟩ true) = some (16, [0x5A, 1]) := by decide +kernel
theorem test_witness_EveryFrameIsACommand : (1 : Nat) ≠ 0 ∧ ([] : List Byte).length = 1 / 8 := by decide +kernel
theorem test_witness_EveryFrameIsACommand_whole :
    (192 : Nat) ≠ 0 ∧ (List.replicate 24 (0 : Byte)).length = 192 / 8 := by decide +kernel
theorem test_witness_FramesAreChecked_held :
    (encodeFrame (.sts (frame []))).isSome = true ∧ ({ up with held := true } : State).held = true := by decide +kernel
theorem test_witness_FramesAreChecked_met :
    (encodeFrame (.sts (frame []))).isSome = true ∧
      ∃ r, ({ up with mp := ⟨.initial, some ⟨.initial, false⟩⟩ } : State).mp.frame = some ⟨r, false⟩ :=
  ⟨by decide +kernel, _, rfl⟩
theorem test_witness_FramesAreChecked_short : frameRow (.rgi (frame [0, 0, 0, 1, 0, 0, 0, 64])) =
    some (0x10, 9, frame [0, 0, 0, 1, 0, 0, 0, 64]) ∧ takesFrames up ∧ (frame [0, 0, 0, 1, 0, 0, 0, 64]).tail.length < 9 :=
  ⟨rfl, takes rfl rfl, by decide +kernel⟩
theorem test_witness_FramesAreChecked_long : frameRow (.rpy ⟨0, List.replicate 23 0⟩) =
    some (0x01, 0, ⟨0, List.replicate 23 0⟩) ∧ takesFrames up ∧ 24 < (List.replicate 23 (0 : Byte)).length + 2 :=
  ⟨rfl, takes rfl rfl, by decide +kernel⟩
theorem test_witness_FramesAreChecked_bits : takesFrames up ∧ 1 ≤ 1 ∧ 1 < 16 ∧ 15 < 16 ∧ 17 % 8 ≠ 0 ∧ 192 < 200 :=
  ⟨takes rfl rfl, by decide +kernel⟩
theorem test_witness_FramesAreChecked_unknown :
    takesFrames up ∧ wholeFrame (frame []) 0 ∧ isCommandCode 0x99 = false :=
  ⟨takes rfl rfl, by unfold wholeFrame; decide +kernel, by decide +kernel⟩
theorem test_witness_MisoCarriesTheRecord :
    ({ up with mp := ⟨.initial, some ⟨.initial, true⟩⟩ } : State).mp.frame = some ⟨.initial, true⟩ ∧ up.held = false ∧
      ({ up with held := true } : State).held = true ∧ takesFrames up ∧ wholeFrame (frame []) 0 :=
  ⟨rfl, rfl, rfl, takes rfl rfl, by unfold wholeFrame; decide +kernel⟩
theorem test_witness_StatusIsReported : takesFrames opened ∧ wholeFrame (frame []) 0 ∧ opened.ec.stack.length ≤ 4 ∧
    opened.ip.free.length ≤ 15 ∧ opened.ip.retiring.length ≤ 15 ∧ opened.holds.length ≤ 32 ∧
    opened.dp.tracker.length ≤ 64 ∧ opened.dp.quarantine.length ≤ 64 :=
  ⟨takes rfl rfl, by unfold wholeFrame; decide +kernel, by decide +kernel⟩
theorem test_witness_ConfigurationIsRead : takesFrames up ∧ configLawful up ∧ wholeFrame (frame [5]) 1 ∧
    argument (frame [5]) 0 1 ≤ 5 ∧ 5 < argument (frame [6]) 0 1 :=
  ⟨takes rfl rfl, by unfold configLawful; decide +kernel, by unfold wholeFrame; decide +kernel, by decide +kernel⟩
theorem test_witness_ConfigurationIsWritten_rejected : takesFrames up ∧ wholeFrame (frame [0, 3, 0, 0]) 4 ∧
    5 < argument (frame [6, 0, 0, 0]) 0 1 ∧ 2 < argument (frame [0, 3, 0, 0]) 1 3 ∧
    65535 < argument (frame [1, 0, 0, 1]) 1 3 ∧ argument (frame [2, 0, 0, 0]) 1 3 = 0 ∧
    65535 < argument (frame [2, 0, 0, 1]) 1 3 ∧ 2048 < argument (frame [3, 1, 8, 0]) 1 3 ∧
    2 ^ 17 ≤ argument (frame [4, 0, 0, 2]) 1 3 ∧ 4 ≤ argument (frame [5, 4, 0, 0]) 1 3 :=
  ⟨takes rfl rfl, by unfold wholeFrame; decide +kernel, by decide +kernel⟩
theorem test_witness_ConfigurationIsWritten_accepted : argument (frame [0, 2, 0, 0]) 1 3 ≤ 2 ∧
    argument (frame [1, 255, 255, 0]) 1 3 ≤ 65535 ∧ 1 ≤ argument (frame [2, 1, 0, 0]) 1 3 ∧
    argument (frame [2, 255, 255, 0]) 1 3 ≤ 65535 ∧ argument (frame [3, 0, 8, 0]) 1 3 ≤ 2048 ∧
    argument (frame [4, 255, 255, 1]) 1 3 < 2 ^ 17 ∧ argument (frame [5, 3, 0, 0]) 1 3 ≤ 3 := by decide +kernel

/-- An RGI of slot 7 with one line at the top of the line space. -/
def topLine : Frame := frame [7, 255, 255, 255, 255, 3, 1, 0, 2]

theorem topLine_good : ¬ regionArgumentsBad topLine := by unfold regionArgumentsBad; decide +kernel
theorem test_witness_RegionsAreInstalled_bad : takesFrames laid ∧ wholeFrame topLine 9 ∧ regionsLawful laid ∧
    regionArgumentsBad (frame [8, 0, 0, 0, 0, 0, 1, 0, 0]) ∧ regionArgumentsBad (frame [0, 0, 0, 0, 0, 4, 1, 0, 0]) ∧
    regionArgumentsBad (frame [0, 0, 0, 0, 0, 0, 0, 0, 0]) ∧ regionArgumentsBad (frame [0, 0, 0, 0, 0, 0, 1, 128, 0]) ∧
    regionArgumentsBad (frame [0, 255, 255, 255, 255, 3, 2, 0, 0]) ∧ regionArgumentsBad (frame [0, 0, 0, 0, 0, 0, 1, 0, 3]) :=
  ⟨takes rfl rfl, by unfold wholeFrame; decide +kernel, by unfold regionsLawful; decide +kernel, by unfold regionArgumentsBad; decide +kernel⟩
theorem test_witness_RegionsAreInstalled_refused : opened.ec.stack ≠ [] ∧ ¬ regionArgumentsBad topLine ∧
    argument topLine 0 1 = (7 : Fin 8).val ∧ laid.ec.stack = [] ∧ laid.regions[1].installed = true ∧
    laid.regions[2].installed = false ∧ laid.regions[1].covers 131135 = true :=
  ⟨by decide +kernel, topLine_good, by decide +kernel⟩
theorem up_clear : ∀ k : Fin 8, up.regions[k].installed = false := by decide
theorem test_witness_RegionsAreInstalled_accepted : up.ec.stack = [] ∧ up.regions[7].installed = false ∧
    (∀ (j : Fin 8) (line : Line), argument topLine 1 5 ≤ line.toNat →
      line.toNat < argument topLine 1 5 + argument topLine 6 2 → up.regions[j].covers line = false) ∧
    Mode.PASS.code = argument topLine 8 1 :=
  ⟨rfl, by decide +kernel, fun j line _ _ => by
    have h : up.regions[j].installed = false := up_clear j
    simp only [Region.covers, h, Bool.false_and], by decide +kernel⟩
theorem test_witness_RegionsChangeAndAreReported : takesFrames laid ∧ wholeFrame (frame [7]) 1 ∧ wholeFrame (frame [1, 2]) 2 ∧
    7 < argument (frame [8]) 0 1 ∧ argument (frame [7]) 0 1 = (7 : Fin 8).val ∧ laid.ec.stack = [] ∧ opened.ec.stack ≠ [] ∧
    2 < argument (frame [1, 3]) 1 1 ∧ laid.regions[7].installed = false ∧ laid.regions[1].installed = true ∧
    Mode.PASS.code = argument (frame [1, 2]) 1 1 ∧ laid.regions[0].length ≤ 32768 :=
  ⟨takes rfl rfl, by unfold wholeFrame; decide +kernel, by unfold wholeFrame; decide +kernel, by decide +kernel⟩
theorem test_witness_EpochRequestsAreRefused : epochRow (.cmt (frame [])) = some (0x21, .CMT, frame []) ∧ takesFrames laid ∧
    wholeFrame (frame []) 0 ∧ refusalOf laid .CMT = some .EMPTY ∧ refusalOf (draining .COMMIT) .MRK = some .BUSY :=
  ⟨rfl, takes rfl rfl, by unfold wholeFrame; decide +kernel, by decide +kernel⟩
theorem test_witness_MarkOpensAnEpoch : takesFrames opened ∧ wholeFrame (frame []) 0 ∧ openOrEmpty opened ∧
    opened.ec.stack.length < 4 ∧ opened.ip.free = 2 :: [3, 4, 5, 6, 7, 8, 9, 10, 11, 12, 13, 14, 15] ∧
    opened.ec.counter.toNat ≠ 4294967295 :=
  ⟨takes rfl rfl, by unfold wholeFrame; decide +kernel, by unfold openOrEmpty; decide +kernel, by decide +kernel⟩

/-- `held1` with a write to a JOURNAL line in flight. -/
def inFlight : State :=
  { held1 with
    contexts := [(3, ⟨.WRITE 1 2, 65546, .FORWARDED, none, none, some 0⟩)]
    lht := [(65546, [.host 3])]
    dp := ⟨.UP, [(0, ⟨.FORWARD_WRITE, .context 3, 65546, 500, none, none⟩)], [], []⟩ }

theorem test_witness_ClosingCommandsBeginADrain : epochRow (.rbk (frame [])) = some (0x22, .RBK, frame []) ∧
    takesFrames inFlight ∧ wholeFrame (frame []) 0 ∧ inFlight.ec.stack = { epoch1 with runLength := 1 } :: [] ∧
    inFlight.dp.link = .UP ∧ drainSet inFlight ≠ [] :=
  ⟨rfl, takes rfl rfl, by unfold wholeFrame; decide +kernel, rfl, rfl, by decide +kernel⟩
/-- `held1` with its epoch HALTED. -/
def halted1 : State :=
  { held1 with ec := { held1.ec with stack := [{ epoch1 with runLength := 1, state := .HALTED }] } }

theorem up_tag {s : State} (h : s.dp = ⟨.UP, [], [], []⟩) : tagReady s 0 := by
  unfold tagReady lowestFree
  rw [h]
  exact ⟨rfl, ⟨rfl, rfl, fun u hu => absurd hu (Nat.not_lt_zero _)⟩, rfl⟩
theorem test_witness_ClosingCommandsBeginADrain_halted : takesFrames halted1 ∧
    halted1.ec.stack = { epoch1 with runLength := 1, state := .HALTED } :: [] ∧ EpochOp.ABN ≠ .CMT ∧
    drainSet halted1 = [] ∧ halted1.holds = [] ∧ epoch1.broken = false ∧ halted1.ec.sequencer = .IDLE ∧
    tableGet halted1.jr.records (halted1.jr.head - 1).toNat = some ⟨65546, 0, 1, 1, .HELD, some 5⟩ ∧
    chainOf halted1 65546 = [] ∧ tagReady halted1 0 ∧ ringLawful halted1 ∧ waterLawful halted1 ∧ configLawful halted1 :=
  ⟨takes rfl rfl, rfl, by decide, by decide +kernel, rfl, rfl, rfl, by decide +kernel, by decide +kernel, up_tag rfl,
    by unfold ringLawful; decide +kernel, by unfold waterLawful; decide +kernel, by unfold configLawful; decide +kernel⟩
theorem test_witness_EpochsAreReported : takesFrames held1 ∧ wholeFrame (frame [4]) 1 ∧ argument (frame [0]) 0 1 = 0 ∧
    4 < argument (frame [5]) 0 1 ∧ argument (frame [4]) 0 1 ≤ 4 ∧
    (∀ e ∈ held1.ec.stack, e.level ≠ argument (frame [4]) 0 1) ∧ levelsRight held1.ec.stack ∧
    (∀ e ∈ held1.ec.stack, e.level = argument (frame [1]) 0 1 ∧ e.ids.length ≤ 4 ∧ e.runLength ≤ 2048 ∧ e.restored ≤ 2048) :=
  ⟨takes rfl rfl, by unfold wholeFrame; decide +kernel, by decide +kernel, by decide +kernel, by decide +kernel, by decide +kernel, ⟨rfl, trivial⟩, by decide +kernel⟩
theorem test_witness_JournalIsReported_status : takesFrames held1 ∧ wholeFrame (frame []) 0 ∧
    (held1.jr.records.filter fun p => p.2.state == .RESERVED).length ≤ 64 ∧
    (held1.jr.records.filter fun p => p.2.state == .VOID).length ≤ 2048 :=
  ⟨takes rfl rfl, by unfold wholeFrame; decide +kernel, by decide +kernel⟩
theorem test_witness_JournalIsReported_record : wholeFrame (frame [0, 0]) 2 ∧ 2047 < argument (frame [0, 8]) 0 2 ∧
    argument (frame [255, 7]) 0 2 = (2047 : Slot).toNat ∧ usedCount held1.jr ≤ ((2047 : Slot) - held1.jr.tail).toNat ∧
    argument (frame [0, 0]) 0 2 = (0 : Slot).toNat ∧ ((0 : Slot) - held1.jr.tail).toNat < usedCount held1.jr ∧
    tableGet held1.jr.records (0 : Slot).toNat = some ⟨65546, 0, 1, 1, .HELD, some 5⟩ ∧
    { epoch1 with runLength := 1 } ∈ held1.ec.stack ∧
    ∀ x ∈ held1.ec.stack, ((0 : Slot) - x.runStart).toNat < x.runLength → x = { epoch1 with runLength := 1 } :=
  ⟨by unfold wholeFrame; decide +kernel, by decide +kernel⟩
theorem test_witness_JournalIsReported_word : wholeFrame (frame [0, 0, 15]) 3 ∧ 15 < argument (frame [0, 0, 16]) 2 1 ∧
    argument (frame [0, 0, 15]) 2 1 ≤ 15 ∧
    tableGet capturing.jr.records (0 : Slot).toNat = some ⟨65546, 0, 1, 1, .RESERVED, none⟩ ∧
    ((0 : Slot) - capturing.jr.tail).toNat < usedCount capturing.jr :=
  ⟨by unfold wholeFrame; decide +kernel, by decide +kernel⟩
theorem test_witness_OldestEventIsPopped : takesFrames up ∧ wholeFrame (frame []) 0 ∧ queueBounded up :=
  ⟨takes rfl rfl, by unfold wholeFrame; decide +kernel, by unfold queueBounded; decide +kernel⟩
theorem test_witness_EventsAreAcceptedOrDropped : up.eq.queue.length < 32 ∧
    32 ≤ (List.replicate 32 (⟨0, .OPENED, none, none, 0⟩ : Event)).length ∧ (255 : Nat) ≤ 255 := by decide +kernel
theorem test_witness_WatchesAndRulesAreWritten : takesFrames up ∧
    wholeFrame (frame [3, 1, 255, 255, 255, 255, 3, 15, 0, 0, 0, 0, 0, 0, 0, 0]) 16 ∧
    watchArgumentsBad (frame [4, 1, 0, 0, 0, 0, 0, 0, 0, 0, 0, 0, 0, 0, 0, 0]) ∧
    watchArgumentsBad (frame [0, 1, 0, 0, 0, 0, 4, 0, 0, 0, 0, 0, 0, 0, 0, 0]) ∧
    watchArgumentsBad (frame [0, 1, 0, 0, 0, 0, 0, 16, 0, 0, 0, 0, 0, 0, 0, 0]) ∧
    ¬ watchArgumentsBad (frame [3, 1, 255, 255, 255, 255, 3, 15, 0, 0, 0, 0, 0, 0, 0, 0]) ∧
    argument (frame [3, 1, 255, 255, 255, 255, 3, 15, 0, 0, 0, 0, 0, 0, 0, 0]) 0 1 = (3 : Fin 4).val :=
  ⟨takes rfl rfl, by unfold wholeFrame; decide +kernel, by unfold watchArgumentsBad; decide +kernel⟩
theorem test_witness_WatchesAndRulesAreWritten_rules : wholeFrame (frame [1, 3, 3, 0, 1, 3, 255, 255, 3]) 9 ∧
    ruleArgumentsBad (frame [2, 1, 1, 0, 0, 0, 1, 0, 0]) ∧ ruleArgumentsBad (frame [0, 1, 0, 0, 0, 0, 1, 0, 0]) ∧
    ruleArgumentsBad (frame [0, 1, 4, 0, 1, 2, 1, 0, 0]) ∧ ruleArgumentsBad (frame [0, 1, 3, 0, 1, 4, 1, 0, 0]) ∧
    ruleArgumentsBad (frame [0, 1, 3, 0, 1, 0, 1, 0, 0]) ∧ ruleArgumentsBad (frame [0, 1, 1, 0, 0, 0, 0, 0, 0]) ∧
    ruleArgumentsBad (frame [0, 1, 1, 0, 0, 0, 1, 0, 4]) ∧
    argument (frame [1, 3, 3, 0, 1, 3, 255, 255, 3]) 0 1 = (1 : Fin 2).val ∧
    ¬ ruleArgumentsBad (frame [1, 3, 3, 0, 1, 3, 255, 255, 3]) := by
  refine ⟨by unfold wholeFrame; decide +kernel, .inl (by decide +kernel), .inr (.inl (by decide +kernel)), .inr (.inr (.inl (by decide +kernel))),
    .inr (.inr (.inr (.inl ⟨2, by decide +kernel, by decide +kernel⟩))),
    .inr (.inr (.inr (.inr (.inl ⟨0, 2, by decide +kernel, by decide +kernel, by decide +kernel⟩)))),
    .inr (.inr (.inr (.inr (.inr (.inl (by decide +kernel)))))), .inr (.inr (.inr (.inr (.inr (.inr (by decide +kernel)))))), by decide +kernel, ?_⟩
  have h3 : argument (frame [1, 3, 3, 0, 1, 3, 255, 255, 3]) 2 1 = 3 := by decide +kernel
  rintro (h | h | h | ⟨i, hi, h⟩ | ⟨i, j, hij, hj, h⟩ | h | h)
  · exact absurd h (by decide +kernel)
  · exact absurd h (by decide +kernel)
  · exact absurd h (by decide +kernel)
  · rw [h3] at hi
    have : ∀ i : Fin 3, ¬ 3 < argument (frame [1, 3, 3, 0, 1, 3, 255, 255, 3]) (3 + i.val) 1 := by decide +kernel
    exact this ⟨i, hi⟩ h
  · rw [h3] at hj
    have : ∀ i j : Fin 3, i < j → argument (frame [1, 3, 3, 0, 1, 3, 255, 255, 3]) (3 + i.val) 1 ≠
      argument (frame [1, 3, 3, 0, 1, 3, 255, 255, 3]) (3 + j.val) 1 := by decide +kernel
    exact this ⟨i, by omega⟩ ⟨j, hj⟩ hij h
  · exact absurd h (by decide +kernel)
  · exact absurd h (by decide +kernel)

/-- Rule 1 of section 11.7 with both marks present. -/
def marked : State :=
  { up with now := 1000, wu := { up.wu with
    rules := up.wu.rules.set 1 ⟨true, [⟨1, some 1001⟩, ⟨2, some 65536000⟩], 65535, .CMT, false⟩ } }

theorem test_witness_WatchesAndRulesAreReported : takesFrames marked ∧ wholeFrame (frame [3]) 1 ∧
    3 < argument (frame [4]) 0 1 ∧ argument (frame [3]) 0 1 = (3 : Fin 4).val ∧ 1 < argument (frame [2]) 0 1 ∧
    argument (frame [1]) 0 1 = (1 : Fin 2).val ∧ marked.wu.rules[(1 : Fin 2)].members.length ≤ 3 ∧
    marked.wu.rules[(1 : Fin 2)].window ≤ 65535 ∧
    ∀ m ∈ marked.wu.rules[(1 : Fin 2)].members, ∀ x, m.mark = some x → marked.now < x ∧ x ≤ marked.now + 65535000 := by
  refine ⟨takes rfl rfl, by unfold wholeFrame; decide +kernel, by decide +kernel, by decide +kernel, by decide +kernel, by decide +kernel, by decide +kernel, by decide +kernel, ?_⟩
  intro m hm x hx
  have h : m = ⟨1, some 1001⟩ ∨ m = ⟨2, some 65536000⟩ := by simpa [marked] using hm
  rcases h with rfl | rfl <;> (simp only [Option.some.injEq] at hx; subst hx; decide +kernel)
theorem test_witness_SeenMarksExpire : marked.wu.rules[(1 : Fin 2)].members[(1 : Fin 3).val]? = some ⟨2, some 65536000⟩ ∧
    ({ marked with now := 65536000 } : State).wu.rules[(1 : Fin 2)].members[(1 : Fin 3).val]? = some ⟨2, some 65536000⟩ ∧
    65536000 ≤ ({ marked with now := 65536000 } : State).now ∧ marked.now < 65536000 ∧
    up.wu.rules[(1 : Fin 2)].members[(0 : Fin 3).val]? = none := by decide +kernel
theorem test_witness_ResetsReturnEveryItem : Instr.rstNReset = .powerOn ∨ Instr.rstNReset = .rstNReset := .inr rfl
theorem test_witness_ResetsEnd : ({ up with held := true } : State).held = true ∧ up.held = false ∧ takesFrames up ∧
    wholeFrame (frame []) 0 :=
  ⟨rfl, rfl, takes rfl rfl, by unfold wholeFrame; decide +kernel⟩
theorem test_witness_LinesAreFiltered : (lineFilter up .MARK_N).high = true ∧ (lineFilter up .MARK_N).high ≠ false ∧
    up.held = false ∧ ((lineFilter up .MARK_N).state, false, FilterState.FALLING) ∈
      [(FilterState.HIGH, false, FilterState.FALLING), (.FALLING, true, .HIGH), (.LOW, true, .RISING), (.RISING, false, .LOW)] ∧
    (lineFilter { up with now := 1, pins := { up.pins with undo := ⟨true, .RISING, 0⟩ } } .UNDO_N).state = .RISING ∧
    (lineFilter { up with now := 1, pins := { up.pins with undo := ⟨true, .RISING, 0⟩ } } .UNDO_N).since + 1 ≤ 1 ∧
    up.now < (lineFilter up .MARK_N).since + 1 := by decide +kernel

/-- Both lines FALLING, since 1 µs before. -/
def falling (s : State) : State :=
  { s with now := 1, pins := { s.pins with mark := ⟨false, .FALLING, 0⟩, undo := ⟨false, .FALLING, 0⟩ } }

theorem test_witness_LineEdgesAskForEpochs : (falling opened).held = false ∧ (falling opened).pins.mark.state = .FALLING ∧
    (falling opened).pins.mark.since + 1 ≤ (falling opened).now ∧ up.now < up.pins.mark.since + 1 ∧
    (falling opened).cfg.lineEnable.getLsbD 0 = true ∧ openOrEmpty (falling opened) ∧ (falling opened).ec.stack.length < 4 ∧
    (falling opened).ec.counter.toNat ≠ 4294967295 ∧ (falling opened).ip.free ≠ [] ∧
    refusalOf (falling (draining .COMMIT)) .MRK = some .BUSY :=
  ⟨rfl, rfl, by decide, by decide, by decide +kernel, by unfold openOrEmpty; decide +kernel, by decide +kernel⟩
theorem test_witness_LineEdgesAskForEpochs_undo : (falling inFlight).held = false ∧
    (falling inFlight).pins.undo.since + 1 ≤ (falling inFlight).now ∧
    (falling inFlight).pins.undo.state = .FALLING ∧ (falling inFlight).cfg.lineEnable.getLsbD 1 = true ∧
    (falling inFlight).dp.link = .UP ∧ drainSet (falling inFlight) ≠ [] ∧
    (falling inFlight).ec.stack = { epoch1 with runLength := 1 } :: [] ∧ refusalOf (falling up) .RBK = some .EMPTY ∧
    (0 : BitVec 2).getLsbD 1 = false := by decide +kernel
theorem test_witness_LineEdgesAskForEpochs_halted :
    (falling halted1).ec.stack = { epoch1 with runLength := 1, state := .HALTED } :: [] ∧
    (falling halted1).cfg.lineEnable.getLsbD 1 = true ∧ (falling halted1).dp.link = .UP ∧
    drainSet (falling halted1) = [] := by decide +kernel

theorem unwatched_of {s : State} (h : ∀ k : Fin 4, s.wu.watches[k].enabled = false) (line : Line) (m : Mask) (d : Data) :
    unwatched s line m d := fun k hk => Bool.false_ne_true ((h k).symm.trans hk.1)
theorem needs1 : needsCapture opened 65546 0 epoch1 [] 1 := by unfold needsCapture captureCalled; decide +kernel

theorem test_witness_RequestsAreForwarded : accepts opened 3 ∧ chainOf opened 196608 = [] ∧ tagReady opened 0 ∧
    entersChain opened 196608 .READ ∧ entersChain opened 196608 (.WRITE 1 2) ∧ needsNoCapture opened 196608 ∧ (1 : Mask) ≠ 0 ∧
    ∀ k : Fin 2, ¬ ruleFires opened 196608 1 2 opened.wu.rules[k] :=
  ⟨by unfold accepts; decide +kernel, by decide +kernel, up_tag rfl, by unfold entersChain openOrEmpty; decide +kernel,
    by unfold entersChain openOrEmpty; decide +kernel, .inl (by decide +kernel), by decide +kernel,
    fun k h => by
      have all : ∀ k : Fin 2, opened.wu.rules[k].enabled = false := by decide +kernel
      exact Bool.false_ne_true ((all k).symm.trans h.1)⟩
theorem test_witness_RequestsAreForwarded_captured : entersChain held1 65546 (.WRITE 1 2) ∧ needsNoCapture held1 65546 :=
  ⟨by unfold entersChain openOrEmpty; decide +kernel,
    .inr (.inr ⟨{ epoch1 with runLength := 1 }, [], 0, rfl, by decide +kernel, .inr (by decide +kernel)⟩)⟩
theorem test_witness_WritesAreCaptured : accepts opened 3 ∧ chainOf opened 65546 = [] ∧ tagReady opened 0 ∧ (1 : Mask) ≠ 0 ∧
    needsCapture opened 65546 0 epoch1 [] 1 ∧ 1 ≤ freeCount opened.jr :=
  ⟨by unfold accepts; decide +kernel, by decide +kernel, up_tag rfl, by decide +kernel, needs1, by decide +kernel⟩
theorem full_lawful (p : Policy) : workLawful (full p) ∧ tablesLawful (full p) := by
  cases p <;> exact ⟨by unfold workLawful; decide +kernel, by unfold tablesLawful; decide +kernel⟩
theorem test_witness_FullJournalsFollowThePolicy : accepts (full .BREAK) 3 ∧ chainOf (full .BREAK) 65900 = [] ∧
    tagReady (full .BREAK) 0 ∧ (1 : Mask) ≠ 0 ∧
    needsCapture (full .BREAK) 65900 0 { epoch1 with runStart := 700, runLength := 2048 } [] 1 ∧
    freeCount (full .BREAK).jr = 0 ∧ workLawful (full .BREAK) ∧ tablesLawful (full .BREAK) ∧
    unwatched (full .BREAK) 65900 1 2 :=
  ⟨by unfold accepts; decide +kernel, by decide +kernel, up_tag rfl, by decide +kernel, by unfold needsCapture captureCalled; decide +kernel, by decide +kernel,
    (full_lawful _).1, (full_lawful _).2, unwatched_of (by decide +kernel) _ _ _⟩
theorem test_witness_FullJournalsFollowThePolicy_policies : (full .HOLD).cfg.capturePolicy = .HOLD ∧
    (full .REFUSE).cfg.capturePolicy = .REFUSE ∧ freeCount (full .HOLD).jr = 0 ∧ freeCount (full .REFUSE).jr = 0 := by decide +kernel
theorem test_witness_RequestsAreHeldOrFenced : requestRow (.writeRequest 3 131072 0 5) = some (3, 131072, .WRITE 0 5) ∧
    accepts opened 3 ∧ workLawful opened ∧ tablesLawful opened ∧ modeOf opened 131072 = .FENCE ∧ Request.WRITE 0 5 ≠ .READ :=
  ⟨rfl, by unfold accepts; decide +kernel, by unfold workLawful; decide +kernel, by unfold tablesLawful; decide +kernel, by decide +kernel, by simp⟩
theorem test_witness_RequestsAreHeldOrFenced_held : requestRow (.readRequest 3 65700) = some (3, 65700, .READ) ∧
    accepts (draining .COMMIT) 3 ∧ workLawful (draining .COMMIT) ∧ tablesLawful (draining .COMMIT) ∧
    modeOf (draining .COMMIT) 65700 = .JOURNAL ∧ innermostState (draining .COMMIT) = some .DRAINING :=
  ⟨rfl, by unfold accepts; decide +kernel, by unfold workLawful; decide +kernel, by unfold tablesLawful; decide +kernel, by decide +kernel⟩

theorem test_witness_RequestsAreHeldOrFenced_halted : accepts halted1 3 ∧ workLawful halted1 ∧ tablesLawful halted1 ∧
    modeOf halted1 65700 = .JOURNAL ∧ innermostState halted1 = some .HALTED :=
  ⟨by unfold accepts; decide +kernel, by unfold workLawful; decide +kernel, by unfold tablesLawful; decide +kernel, by decide +kernel⟩
theorem test_witness_RequestsAnsweredAtOnce : State.reset.upLink = .DOWN ∧ inFlight.upLink = .UP ∧
    contextOf inFlight 3 = some ⟨.WRITE 1 2, 65546, .FORWARDED, none, none, some 0⟩ ∧ accepts opened 3 ∧ workLawful opened ∧
    tablesLawful opened ∧ chainOf opened 65546 = [] ∧ entersChain opened 65546 (.WRITE 0 5) :=
  ⟨rfl, rfl, by decide +kernel, by unfold accepts; decide +kernel, by unfold workLawful; decide +kernel, by unfold tablesLawful; decide +kernel, by decide +kernel,
    by unfold entersChain openOrEmpty; decide +kernel⟩
theorem test_witness_RequestsAnsweredAtOnce_down :
    let w : State := { opened with dp := ⟨.DOWN, [], [], []⟩ }
    requestRow (.readRequest 3 65546) = some (3, 65546, .READ) ∧ accepts w 3 ∧ workLawful w ∧ tablesLawful w ∧
      chainOf w 65546 = [] ∧ entersChain w 65546 .READ ∧ (∀ d, Request.READ ≠ .WRITE 0 d) ∧ w.dp.link = .DOWN :=
  ⟨rfl, by unfold accepts; decide +kernel, by unfold workLawful; decide +kernel, by unfold tablesLawful; decide +kernel,
    by decide +kernel, by unfold entersChain openOrEmpty; decide +kernel, by simp, rfl⟩
theorem test_witness_RequestsWaitTheirTurn_behind : requestRow (.readRequest 4 65546) = some (4, 65546, .READ) ∧
    accepts inFlight 4 ∧ workLawful inFlight ∧ tablesLawful inFlight ∧ entersChain inFlight 65546 .READ ∧
    chainOf inFlight 65546 = .host 3 :: [] ∧ stepActive inFlight (.host 3) = true :=
  ⟨rfl, by unfold accepts; decide +kernel, by unfold workLawful; decide +kernel, by unfold tablesLawful; decide +kernel,
    by unfold entersChain openOrEmpty; decide +kernel, by decide +kernel⟩
theorem test_witness_RequestsWaitTheirTurn_tag : accepts (waiting .READ 65546) 4 ∧ workLawful (waiting .READ 65546) ∧
    tablesLawful (waiting .READ 65546) ∧ entersChain (waiting .READ 65546) 7 .READ ∧ chainOf (waiting .READ 65546) 7 = [] ∧
    (waiting .READ 65546).dp.link = .UP ∧ (waiting .READ 65546).dp.tagWait ≠ [] :=
  ⟨by unfold accepts; decide +kernel, by unfold workLawful; decide +kernel, by unfold tablesLawful; decide +kernel,
    by unfold entersChain openOrEmpty; decide +kernel, by decide +kernel⟩

theorem test_witness_RepliesEndRequests : (forwarded .READ .FORWARD_READ laid).held = false ∧
    (forwarded .READ .FORWARD_READ laid).upLink = .UP ∧ quiet (forwarded .READ .FORWARD_READ laid) ∧
    tablesLawful (forwarded .READ .FORWARD_READ laid) ∧
    tableGet (forwarded .READ .FORWARD_READ laid).dp.tracker 0 = some ⟨.FORWARD_READ, .context 3, 7, 500, none, none⟩ ∧
    contextOf (forwarded .READ .FORWARD_READ laid) 3 = some ⟨.READ, 7, .FORWARDED, none, none, some 0⟩ ∧
    chainOf (forwarded .READ .FORWARD_READ laid) 7 = [.host 3] :=
  ⟨rfl, rfl, by unfold quiet; decide +kernel, by unfold tablesLawful; decide +kernel, by decide +kernel⟩
theorem test_witness_RepliesEndRequests_write : quiet (forwarded (.WRITE 1 2) .FORWARD_WRITE laid) ∧
    tablesLawful (forwarded (.WRITE 1 2) .FORWARD_WRITE laid) ∧
    tableGet (forwarded (.WRITE 1 2) .FORWARD_WRITE laid).dp.tracker 0 =
      some ⟨.FORWARD_WRITE, .context 3, 7, 500, none, none⟩ ∧
    contextOf (forwarded (.WRITE 1 2) .FORWARD_WRITE laid) 3 = some ⟨.WRITE 1 2, 7, .FORWARDED, none, none, some 0⟩ :=
  ⟨by unfold quiet; decide +kernel, by unfold tablesLawful; decide +kernel, by decide +kernel⟩
/-- The write of `inFlight`, the last a drain waits for. -/
def lastWrite : State := { inFlight with ec := (draining .COMMIT).ec }

/-- `lastWrite` once its write is answered. -/
def lastWriteDone : State := { lastWrite with contexts := [], lht := [], dp := ⟨.UP, [], [], []⟩ }

-- R81: the reply that empties the drain set completes the commit in the same event.
theorem test_reply_completes_drain :
    after (exec (.writeReply 0 .OK) lastWrite) (fun t => t.ec.stack = [] && t.upTx = [⟨3, .WRITE, .OK, none⟩]) = true := by
  decide
theorem test_witness_RepliesEndRequests_drain : lastWrite.held = false ∧ lastWrite.dp.tagWait = [] ∧
    tablesLawful lastWrite ∧ chainOf lastWrite 65546 = [.host 3] ∧ innermostState lastWriteDone = some .DRAINING ∧
    drainSet lastWriteDone = [] :=
  ⟨rfl, rfl, by unfold tablesLawful; decide +kernel, by decide +kernel⟩
theorem test_witness_CaptureReadsHoldRecords : capturing.held = false ∧ capturing.dp.link = .UP ∧ quiet capturing ∧
    tablesLawful capturing ∧ tableGet capturing.dp.tracker 0 = some ⟨.CAPTURE_READ, .context 3, 65546, 500, none, none⟩ ∧
    contextOf capturing 3 = some ⟨.WRITE 1 2, 65546, .CAPTURING, some 0, some 0, some 0⟩ ∧
    tableGet capturing.jr.records 0 = some ⟨65546, 0, 1, 1, .RESERVED, none⟩ ∧ unwatched capturing 65546 1 2 ∧
    lowestFree { capturing with dp := { capturing.dp with tracker := tableErase capturing.dp.tracker 0 } } 0 ∧
    lookup capturing 65546 = some 0 ∧ chainOf capturing 65546 = [.host 3] ∧ capturing.upLink = .UP :=
  ⟨rfl, rfl, by unfold quiet; decide +kernel, by unfold tablesLawful; decide +kernel, by decide +kernel, by decide +kernel, by decide +kernel,
    unwatched_of (by decide +kernel) _ _ _, by unfold lowestFree; decide +kernel, by decide +kernel⟩
/-- `capturing` with the host's link lost: the capture read is an orphan. -/
def orphanedRead : State :=
  { capturing with
    upLink := .DOWN
    contexts := []
    lht := [(65546, [.orphan 0])]
    dp := ⟨.UP, [(0, ⟨.CAPTURE_READ, .orphaned, 65546, 500, some 0, some 0⟩)], [], []⟩ }

theorem test_witness_CaptureReadsHoldRecords_orphan : orphanedRead.held = false ∧ orphanedRead.dp.link = .UP ∧
    orphanedRead.dp.tagWait = [] ∧ tablesLawful orphanedRead ∧ chainOf orphanedRead 65546 = [.orphan 0] ∧
    tableGet orphanedRead.dp.tracker 0 = some ⟨.CAPTURE_READ, .orphaned, 65546, 500, some 0, some 0⟩ ∧
    tableGet orphanedRead.jr.records (0 : Slot).toNat = some ⟨65546, 0, 1, 1, .RESERVED, none⟩ ∧
    innermostState orphanedRead ≠ some .DRAINING :=
  ⟨rfl, rfl, rfl, by unfold tablesLawful; decide +kernel, by decide +kernel⟩
theorem test_witness_CaptureReadsHoldRecords_draining :
    innermostState { capturing with ec := (draining .COMMIT).ec } = some .DRAINING ∧ isJournalLine capturing 65546 = true ∧
    drainSet { orphanedRead with ec := (draining .COMMIT).ec, lht := [] } = [] := by decide +kernel
theorem test_witness_FailedCapturesAreVoid : capturing.held = false ∧ capturing.upLink = .UP ∧ capturing.dp.tagWait = [] ∧
    tablesLawful capturing ∧ tableGet capturing.jr.records (0 : Slot).toNat = some ⟨65546, 0, 1, 1, .RESERVED, none⟩ ∧
    lookup capturing 65546 = some 0 ∧ chainOf capturing 65546 = [.host 3] ∧ innermostState capturing ≠ some .DRAINING ∧
    500 ≤ ({ capturing with now := 500 } : State).now ∧ lookup orphanedRead 65546 = some 0 ∧
    500 ≤ ({ orphanedRead with now := 500 } : State).now :=
  ⟨rfl, rfl, rfl, by unfold tablesLawful; decide +kernel, by decide +kernel⟩

/-- A read forwarded on tag 0 for host tag 3, with host tag 4's read of the same line behind it. -/
def behind : State :=
  { forwarded .READ .FORWARD_READ laid with
    contexts := [(3, ⟨.READ, 7, .FORWARDED, none, none, some 0⟩), (4, ⟨.READ, 7, .QUEUED, none, none, none⟩)]
    lht := [(7, [.host 3, .host 4])] }

/-- The same on line 65,546, under an epoch in a state. -/
def behindOnJournal (st : EpochState) : State :=
  { opened with
    ec := { opened.ec with stack := [{ epoch1 with state := st }] }
    contexts := [(3, ⟨.READ, 65546, .FORWARDED, none, none, some 0⟩), (4, ⟨.READ, 65546, .QUEUED, none, none, none⟩)]
    lht := [(65546, [.host 3, .host 4])]
    dp := ⟨.UP, [(0, ⟨.FORWARD_READ, .context 3, 65546, 500, none, none⟩)], [], []⟩ }

theorem test_witness_StepsBehindReachTheFront : behind.held = false ∧ behind.upLink = .UP ∧ behind.dp.link = .UP ∧
    quiet behind ∧ tablesLawful behind ∧ (3 : HostTag) ≠ 4 ∧
    tableGet behind.dp.tracker 0 = some ⟨.FORWARD_READ, .context 3, 7, 500, none, none⟩ ∧
    contextOf behind 4 = some ⟨.READ, 7, .QUEUED, none, none, none⟩ ∧
    lowestFree { behind with dp := { behind.dp with tracker := tableErase behind.dp.tracker 0 } } 0 ∧
    chainOf behind 7 = [.host 3, .host 4] ∧ modeOf behind 7 ≠ .JOURNAL :=
  ⟨rfl, rfl, rfl, by unfold quiet; decide +kernel, by unfold tablesLawful; decide +kernel, by decide +kernel, by decide +kernel, by decide +kernel,
    by unfold lowestFree; decide +kernel, by decide +kernel⟩
theorem test_witness_StepsBehindReachTheFront_journal : quiet (behindOnJournal .HALTED) ∧ tablesLawful (behindOnJournal .HALTED) ∧
    modeOf (behindOnJournal .HALTED) 65546 = .JOURNAL ∧ innermostState (behindOnJournal .HALTED) = some .HALTED ∧
    quiet (behindOnJournal .RESTORING) ∧ innermostState (behindOnJournal .RESTORING) = some .RESTORING :=
  ⟨by unfold quiet; decide +kernel, by unfold tablesLawful; decide +kernel, by decide +kernel, by decide +kernel, by unfold quiet; decide +kernel, by decide +kernel⟩
theorem test_witness_StepsBehindReachTheFront_orphan :
    let w : State := { behind with
      contexts := [(4, ⟨.READ, 7, .QUEUED, none, none, none⟩)]
      lht := [(7, [.orphan 0, .host 4])]
      dp := ⟨.UP, [(0, ⟨.FORWARD_WRITE, .orphaned, 7, 500, none, none⟩)], [], []⟩ }
    w.held = false ∧ w.upLink = .UP ∧ quiet w ∧ tablesLawful w ∧
      tableGet w.dp.tracker 0 = some ⟨.FORWARD_WRITE, .orphaned, 7, 500, none, none⟩ ∧
      contextOf w 4 = some ⟨.READ, 7, .QUEUED, none, none, none⟩ ∧
      lowestFree { w with dp := { w.dp with tracker := tableErase w.dp.tracker 0 } } 0 ∧
      chainOf w 7 = [.orphan 0, .host 4] ∧ modeOf w 7 ≠ .JOURNAL :=
  ⟨rfl, rfl, by unfold quiet; decide +kernel, by unfold tablesLawful; decide +kernel, by decide +kernel, by decide +kernel,
    by unfold lowestFree; decide +kernel, by decide +kernel⟩

/-- Host tag 4's read of line 9 waits for a tag; host tag 3 has the access of `s`. -/
def oneWaits (s : State) : State :=
  { s with
    contexts := s.contexts ++ [(4, ⟨.READ, 9, .QUEUED, none, none, none⟩)]
    lht := s.lht.take 0 ++ [(9, [.host 4])] ++ s.lht
    dp := { s.dp with tagWait := [.host 4] } }

/-- `capturing` with every other tag quarantined, and host tag 4's read of line 9 waiting. -/
def lastTag : State :=
  { oneWaits capturing with dp := { (oneWaits capturing).dp with
    quarantine := (List.range 63).map fun n => (n + 1, 0) } }

theorem test_witness_FreedTagsAreHandedOut_capture : lastTag.held = false ∧ lastTag.upLink = .UP ∧ lastTag.dp.link = .UP ∧
    innermostState lastTag ≠ some .DRAINING ∧ tablesLawful lastTag ∧ lastTag.dp.tagWait = [.host 4] ∧
    contextOf lastTag 4 = some ⟨.READ, 9, .QUEUED, none, none, none⟩ ∧ chainOf lastTag 9 = [.host 4] ∧
    modeOf lastTag 9 ≠ .JOURNAL ∧
    lowestFree { lastTag with dp := { lastTag.dp with tracker := tableErase lastTag.dp.tracker 0 } } 0 ∧
    tableGet lastTag.dp.tracker 0 = some ⟨.CAPTURE_READ, .context 3, 65546, 500, none, none⟩ ∧
    unwatched lastTag 65546 1 2 ∧ ∀ g, ¬ lowestFree lastTag g := by
  refine ⟨rfl, rfl, rfl, by decide +kernel, by unfold tablesLawful; decide +kernel, rfl, by decide +kernel, by decide +kernel, by decide +kernel,
    by unfold lowestFree; decide +kernel, by decide +kernel, unwatched_of (by decide +kernel) _ _ _, ?_⟩
  intro g hg
  have h : freeTag lastTag = none := by decide +kernel
  rw [(freeTag_iff lastTag g).mpr hg] at h
  exact nomatch h

/-- A read of line 12 forwarded on tag 0 for host tag 3; host tag 4's read of line 9 waits for a tag. -/
def readWaits : State :=
  { laid with
    contexts := [(3, ⟨.READ, 12, .FORWARDED, none, none, some 0⟩), (4, ⟨.READ, 9, .QUEUED, none, none, none⟩)]
    lht := [(9, [.host 4]), (12, [.host 3])]
    dp := ⟨.UP, [(0, ⟨.FORWARD_READ, .context 3, 12, 500, none, none⟩)], [], [.host 4]⟩ }

/-- The last write of a rollback's drain on tag 0, every other tag quarantined; host tag 4's read of line 9 waits. -/
def restoreWaits : State :=
  { held1 with
    ec := (draining .ROLLBACK).ec
    contexts := [(3, ⟨.WRITE 1 2, 65700, .FORWARDED, none, none, some 0⟩), (4, ⟨.READ, 9, .QUEUED, none, none, none⟩)]
    lht := [(9, [.host 4]), (65700, [.host 3])]
    dp := ⟨.UP, [(0, ⟨.FORWARD_WRITE, .context 3, 65700, 500, none, none⟩)], (List.range 63).map fun n => (n + 1, 0),
      [.host 4]⟩ }

-- R81, R119: the drain completes at the reply, and the restore step takes the freed tag before the read that waits.
theorem test_restore_takes_freed_tag :
    after (exec (.writeReply 0 .OK) restoreWaits)
      (fun t => t.downTx = [.write 0 65546 (BitVec.allOnes 64) 5] && t.dp.tagWait = [.host 4]) = true := by decide +kernel
theorem test_witness_FreedTagsAreHandedOut_restore : restoreWaits.held = false ∧ restoreWaits.upLink = .UP ∧
    restoreWaits.dp.link = .UP ∧ tablesLawful restoreWaits ∧ restoreWaits.dp.tagWait = [.host 4] ∧
    contextOf restoreWaits 4 = some ⟨.READ, 9, .QUEUED, none, none, none⟩ ∧ chainOf restoreWaits 9 = [.host 4] ∧
    lowestFree { restoreWaits with dp := { restoreWaits.dp with tracker := tableErase restoreWaits.dp.tracker 0 } } 0 ∧
    tableGet restoreWaits.dp.tracker 0 = some ⟨.FORWARD_WRITE, .context 3, 65700, 500, none, none⟩ ∧
    contextOf restoreWaits 3 = some ⟨.WRITE 1 2, 65700, .FORWARDED, none, none, some 0⟩ ∧
    chainOf restoreWaits 65700 = [.host 3] ∧ (∀ g, ¬ lowestFree restoreWaits g) ∧
    restoreWaits.ec.stack = { epoch1 with runLength := 1, state := .DRAINING, pending := some .ROLLBACK } :: [] ∧
    restoreWaits.ec.sequencer = .IDLE ∧ drainSet restoreWaits = [.host 3] ∧
    tableGet restoreWaits.jr.records (restoreWaits.jr.head - 1).toNat = some ⟨65546, 0, 1, 1, .HELD, some 5⟩ ∧
    chainOf restoreWaits 65546 = [] := by
  refine ⟨rfl, rfl, rfl, by unfold tablesLawful; decide +kernel, rfl, by decide +kernel, by decide +kernel,
    by unfold lowestFree; decide +kernel, by decide +kernel, by decide +kernel, by decide +kernel, ?_, rfl, rfl,
    by decide +kernel, by decide +kernel, by decide +kernel⟩
  intro g hg
  have h : freeTag restoreWaits = none := by decide +kernel
  rw [(freeTag_iff restoreWaits g).mpr hg] at h
  exact nomatch h
theorem test_witness_FreedTagsAreHandedOut : readWaits.held = false ∧ readWaits.upLink = .UP ∧ readWaits.dp.link = .UP ∧
    innermostState readWaits ≠ some .DRAINING ∧ tablesLawful readWaits ∧ readWaits.dp.tagWait = [.host 4] ∧
    contextOf readWaits 4 = some ⟨.READ, 9, .QUEUED, none, none, none⟩ ∧ chainOf readWaits 9 = [.host 4] ∧
    modeOf readWaits 9 ≠ .JOURNAL ∧
    lowestFree { readWaits with dp := { readWaits.dp with tracker := tableErase readWaits.dp.tracker 0 } } 0 ∧
    tableGet readWaits.dp.tracker 0 = some ⟨.FORWARD_READ, .context 3, 12, 500, none, none⟩ ∧
    contextOf readWaits 3 = some ⟨.READ, 12, .FORWARDED, none, none, some 0⟩ ∧ chainOf readWaits 12 = [.host 3] :=
  ⟨rfl, rfl, rfl, by decide +kernel, by unfold tablesLawful; decide +kernel, rfl, by decide +kernel, by decide +kernel, by decide +kernel,
    by unfold lowestFree; decide +kernel, by decide +kernel⟩
theorem test_witness_UnownedRepliesAreDiscarded : State.reset.dp.link = .DOWN ∧ laid.held = false ∧ laid.dp.link = .UP ∧
    tableGet laid.dp.tracker 63 = none ∧ tableGet laid.dp.quarantine 63 = none ∧ quiet laid ∧
    tableGet ({ laid with dp := ⟨.UP, [], [(63, 7)], []⟩ } : State).dp.quarantine 63 = some 7 ∧
    ((∃ r, Instr.readReply 0 .ERROR = .readReply 0 r) ↔ Purpose.FORWARD_WRITE = .FORWARD_WRITE ∨
      Purpose.FORWARD_WRITE = .RESTORE_WRITE) ∧
    tableGet (forwarded (.WRITE 1 2) .FORWARD_WRITE laid).dp.tracker 0 =
      some ⟨.FORWARD_WRITE, .context 3, 7, 500, none, none⟩ :=
  ⟨rfl, rfl, rfl, rfl, rfl, by unfold quiet; decide +kernel, by decide +kernel, ⟨fun _ => .inl rfl, fun _ => ⟨_, rfl⟩⟩, by decide +kernel⟩
/-- The forwarded read of line 7, 500 µs on: its expiry is reached. -/
def expired : State := { forwarded .READ .FORWARD_READ laid with now := 500 }

theorem test_witness_DownstreamRequestsTimeOut : tableGet laid.dp.tracker 0 = none ∧
    (forwarded .READ .FORWARD_READ laid).now < 500 ∧ expired.upLink = .UP ∧ quiet expired ∧ tablesLawful expired ∧
    tableGet expired.dp.tracker 0 = some ⟨.FORWARD_READ, .context 3, 7, 500, none, none⟩ ∧ 500 ≤ expired.now ∧
    contextOf expired 3 = some ⟨.READ, 7, .FORWARDED, none, none, some 0⟩ ∧ chainOf expired 7 = [.host 3] :=
  ⟨rfl, by decide, rfl, by unfold quiet; decide +kernel, by unfold tablesLawful; decide +kernel, by decide +kernel⟩

/-- A held read under a RESTORING epoch. -/
def heldRead : State :=
  { restoring with
    contexts := [(3, ⟨.READ, 65700, .HELD, none, none, none⟩)]
    holds := [⟨3, 65700, .OPERATION, some 2010⟩] }

theorem test_witness_HeldRequestsExpire_early :
    ∀ h ∈ heldRead.holds, h.tag = 3 → ∀ x, h.expiry = some x → heldRead.now < x := by
  intro h hm _ x hx
  obtain rfl : h = ⟨3, 65700, .OPERATION, some 2010⟩ := by simpa [heldRead] using hm
  obtain rfl : 2010 = x := by simpa using hx
  decide
theorem test_witness_HeldRequestsExpire : heldRead.holds = [] ++ ⟨3, 65700, .OPERATION, some 2010⟩ :: [] ∧
    2010 ≤ ({ heldRead with now := 2010 } : State).now ∧
    contextOf heldRead 3 = some ⟨.READ, 65700, .HELD, none, none, none⟩ ∧ chainOf heldRead 65700 = [] ∧
    heldRead.upLink = .UP ∧ quiet heldRead ∧ tablesLawful heldRead :=
  ⟨rfl, by decide, by decide +kernel, by decide +kernel, rfl, by unfold quiet; decide +kernel, by unfold tablesLawful; decide +kernel⟩
theorem test_witness_ScrubberVisitsStamps : laid.ss.sweeping = false ∧
    ({ laid with ss := ⟨true, 262142, 1, 0⟩ } : State).ss.position.toNat ≠ 262143 ∧
    ({ laid with ss := ⟨true, 262143, 1, 0⟩ } : State).ss.position.toNat = 262143 := by decide +kernel

theorem held_laws (p : Pending) : ringLawful (draining p) ∧ waterLawful (draining p) ∧ configLawful (draining p) := by
  cases p <;> exact ⟨by unfold ringLawful; decide +kernel, by unfold waterLawful; decide +kernel, by unfold configLawful; decide +kernel⟩

/-- Two epochs, the inner one DRAINING. -/
def nested (p : Pending) (ids : List Ident) : State :=
  { held1 with
    ec := ⟨[{ epoch2 with state := .DRAINING, pending := some p }, { epoch1 with runLength := 1, ids := ids }], 2,
      some .MGMT, .IDLE, false⟩
    ip := { held1.ip with free := [6, 7, 8, 9, 10, 11, 12, 13, 14, 15] } }

theorem test_witness_CommitsReleaseOrMerge :
    (draining .COMMIT).ec.stack = [{ epoch1 with runLength := 1, state := .DRAINING, pending := some .COMMIT }] ∧
    drainSet (draining .COMMIT) = [] ∧ (draining .COMMIT).holds = [] ∧ ringLawful (draining .COMMIT) ∧
    waterLawful (draining .COMMIT) ∧ configLawful (draining .COMMIT) :=
  ⟨rfl, by decide +kernel, rfl, (held_laws _).1, (held_laws _).2.1, (held_laws _).2.2⟩
theorem test_witness_CommitsReleaseOrMerge_nested :
    (nested .COMMIT [1, 3, 4]).ec.stack = { epoch2 with state := .DRAINING, pending := some .COMMIT } ::
      { epoch1 with runLength := 1, ids := [1, 3, 4] } :: [] ∧ epoch1.state = .OPEN ∧
    drainSet (nested .COMMIT [1, 3, 4]) = [] ∧ (nested .COMMIT [1, 3, 4]).holds = [] ∧ [1, 3, 4].length + epoch2.ids.length ≤ 4 ∧
    drainSet (nested .COMMIT [1, 3, 4, 5]) = [] ∧ 4 < [1, 3, 4, 5].length + epoch2.ids.length := by decide +kernel
theorem test_witness_CommitsReleaseWhatWaits :
    let w : State := { draining .COMMIT with
      contexts := [(3, ⟨.WRITE 1 2, 65900, .SPACE_WAIT, none, none, none⟩)]
      lht := [(65900, [.host 3])]
      holds := [⟨3, 65900, .SPACE, none⟩] }
    w.ec.stack = [{ epoch1 with runLength := 1, state := .DRAINING, pending := some .COMMIT }] ∧ drainSet w = [] ∧
      ringLawful w ∧ waterLawful w ∧ configLawful w ∧ tagReady w 0 ∧ unwatched w 65900 1 2 ∧ (1 : Mask) ≠ 0 ∧
      contextOf w 3 = some ⟨.WRITE 1 2, 65900, .SPACE_WAIT, none, none, none⟩ ∧ chainOf w 65900 = [.host 3] :=
  ⟨rfl, by decide +kernel, by unfold ringLawful; decide +kernel, by unfold waterLawful; decide +kernel,
    by unfold configLawful; decide +kernel, up_tag rfl, unwatched_of (by decide +kernel) _ _ _, by decide +kernel⟩
theorem test_witness_CommitsReleaseWhatWaits_operation :
    let w : State := { draining .COMMIT with
      contexts := [(3, ⟨.READ, 65900, .HELD, none, none, none⟩)], holds := [⟨3, 65900, .OPERATION, none⟩] }
    drainSet w = [] ∧ ringLawful w ∧ tagReady w 0 ∧ chainOf w 65900 = [] ∧
      contextOf w 3 = some ⟨.READ, 65900, .HELD, none, none, none⟩ :=
  ⟨by decide +kernel, by unfold ringLawful; decide +kernel, up_tag rfl, by decide +kernel, by decide +kernel⟩
theorem test_witness_AbandonedRunsAreReleased :
    (draining .ABANDON).ec.stack = { epoch1 with runLength := 1, state := .DRAINING, pending := some .ABANDON } :: [] ∧
    drainSet (draining .ABANDON) = [] ∧ (draining .ABANDON).holds = [] ∧ ringLawful (draining .ABANDON) ∧
    waterLawful (draining .ABANDON) ∧ configLawful (draining .ABANDON) :=
  ⟨rfl, by decide +kernel, rfl, held_laws _⟩
theorem test_witness_AbandonedRunsAreReleased_nested (p : Pending) :
    (nested p [1]).ec.stack = { epoch2 with state := .DRAINING, pending := some p } :: [{ epoch1 with runLength := 1 }] ∧
    drainSet (nested p [1]) = [] ∧ (nested p [1]).holds = [] ∧ ringLawful (nested p [1]) ∧ waterLawful (nested p [1]) ∧
    configLawful (nested p [1]) ∧ (∀ x ∈ [({ epoch1 with runLength := 1 } : Epoch)], x.state = .OPEN) ∧
    (nested p [1]).ec.stack.getLast? = some { epoch1 with runLength := 1 } ∧
    (nested p [1]).eq.queue.length + (nested p [1]).ec.stack.length ≤ 32 := by
  cases p <;> exact ⟨rfl, by decide +kernel, rfl, by unfold ringLawful; decide +kernel, by unfold waterLawful; decide +kernel,
    by unfold configLawful; decide +kernel, by decide +kernel, rfl, by decide +kernel⟩
theorem test_witness_RollbacksBegin :
    (draining .ROLLBACK).ec.stack = { epoch1 with runLength := 1, state := .DRAINING, pending := some .ROLLBACK } :: [] ∧
    epoch1.broken = false ∧ (draining .ROLLBACK).ec.closingOrigin = some .MGMT ∧ (draining .ROLLBACK).holds = [] ∧
    (draining .ROLLBACK).ec.sequencer = .IDLE ∧ drainSet (draining .ROLLBACK) = [] ∧
    tableGet (draining .ROLLBACK).jr.records ((draining .ROLLBACK).jr.head - 1).toNat =
      some ⟨65546, 0, 1, 1, .HELD, some 5⟩ ∧ chainOf (draining .ROLLBACK) 65546 = [] ∧ tagReady (draining .ROLLBACK) 0 :=
  ⟨rfl, rfl, rfl, rfl, rfl, by decide +kernel, by decide +kernel, by decide +kernel, up_tag rfl⟩
theorem test_witness_RollbacksBegin_empty : (nested .ROLLBACK [1]).ec.stack =
    { epoch2 with state := .DRAINING, pending := some .ROLLBACK } :: [{ epoch1 with runLength := 1 }] ∧
    (nested .ROLLBACK [1]).ec.closingOrigin = some .MGMT ∧ drainSet (nested .ROLLBACK [1]) = [] ∧
    (nested .ROLLBACK [1]).ec.sequencer = .IDLE ∧ (nested .ROLLBACK [1]).holds = [] ∧ epoch2.runLength = 0 ∧
    epoch2.broken = false := by decide +kernel
theorem test_witness_RollbacksBegin_broken :
    let e : Epoch := { epoch1 with runLength := 1, state := .DRAINING, pending := some .ROLLBACK, broken := true }
    let w : State := { draining .ROLLBACK with ec := { (draining .ROLLBACK).ec with stack := [e] } }
    w.ec.stack = e :: [] ∧ e.broken = true ∧ w.ec.closingOrigin = some .MGMT ∧ w.ec.sequencer = .IDLE ∧
      drainSet w = [] ∧ w.holds = [] := by decide +kernel
/-- A run of two, its records in slots 0 and 1 in states, under an epoch in a state. -/
def two (st : EpochState) (p : Option Pending) (older newest : RecordState) : State :=
  { held1 with
    ec := ⟨[{ epoch1 with runLength := 2, state := st, pending := p }], 1, if st = .DRAINING then some .MGMT else none,
      .IDLE, false⟩
    jr := ⟨2, 0, false, [(0, ⟨65546, 0, 1, 1, older, some 5⟩), (1, ⟨65547, 0, 1, 1, newest, some 6⟩)], true⟩ }

theorem test_witness_RollbacksBegin_void :
    let w := two .DRAINING (some .ROLLBACK) .HELD .VOID
    w.ec.stack = { epoch1 with runLength := 2, state := .DRAINING, pending := some .ROLLBACK } :: [] ∧
      w.ec.closingOrigin = some .MGMT ∧ drainSet w = [] ∧ ringLawful w ∧ waterLawful w ∧
      tableGet w.jr.records (w.jr.head - 1).toNat = some ⟨65547, 0, 1, 1, .VOID, some 6⟩ ∧
      tableGet w.jr.records (w.jr.head - 2).toNat = some ⟨65546, 0, 1, 1, .HELD, some 5⟩ ∧ chainOf w 65546 = [] ∧
      tagReady w 0 :=
  ⟨rfl, rfl, by decide +kernel, by unfold ringLawful; decide +kernel, by unfold waterLawful; decide +kernel,
    by decide +kernel, by decide +kernel, by decide +kernel, up_tag rfl⟩
theorem test_witness_RollbacksBegin_void_end :
    let w : State := { draining .ROLLBACK with jr := ⟨1, 0, false, [(0, ⟨65546, 0, 1, 1, .VOID, none⟩)], true⟩ }
    drainSet w = [] ∧ ringLawful w ∧ waterLawful w ∧
      tableGet w.jr.records (w.jr.head - 1).toNat = some ⟨65546, 0, 1, 1, .VOID, none⟩ :=
  ⟨by decide +kernel, by unfold ringLawful; decide +kernel, by unfold waterLawful; decide +kernel, by decide +kernel⟩
theorem test_witness_RollbacksBegin_down :
    let w : State := { draining .ROLLBACK with dp := ⟨.DOWN, [], [], []⟩ }
    drainSet w = [] ∧ w.dp.link = .DOWN ∧ w.lht = [] ∧ w.dp.tagWait = [] ∧
      tableGet w.jr.records (w.jr.head - 1).toNat = some ⟨65546, 0, 1, 1, .HELD, some 5⟩ := by decide +kernel

/-- The restore write of the newer of two records outstanding on tag 0, the older one in a state. -/
def restoringTwo (older : RecordState) : State :=
  { two .RESTORING none older .RESTORING with
    ec := { (two .RESTORING none older .RESTORING).ec with sequencer := .WRITING 1 }
    lht := [(65547, [.restore 1])]
    dp := ⟨.UP, [(0, ⟨.RESTORE_WRITE, .sequencer, 65547, 500, none, none⟩)], [], []⟩ }

-- R92, R90: the head steps back and the older record is written back.
theorem test_write_reply_takes_up_next :
    after (exec (.writeReply 0 .OK) (restoringTwo .HELD))
      (fun t => t.jr.head = 1 && t.ec.stack.map (fun e => (e.runLength, e.restored)) = [(1, 1)] &&
        t.downTx = [.write 0 65546 (BitVec.allOnes 64) 5]) = true := by decide +kernel
-- R44, R90: a VOID record beneath is removed without a write, and the rollback ends.
theorem test_write_reply_removes_void :
    after (exec (.writeReply 0 .OK) (restoringTwo .VOID))
      (fun t => t.jr.head = 0 && t.ec.stack = [] && t.downTx = [] && t.eq.queue = [⟨0, .RESTORED, some 1, none, 1⟩]) =
      true := by decide +kernel
theorem test_witness_RestoreWritesRemoveRecords_run (older : RecordState) :
    let w := restoringTwo older
    w.ec.stack = { epoch1 with runLength := 2, state := .RESTORING } :: [] ∧ w.holds = [] ∧ w.dp.tagWait = [] ∧
      w.held = false ∧ w.dp.link = .UP ∧ w.ec.sequencer = .WRITING (w.jr.head - 1) ∧ ringLawful w ∧ waterLawful w ∧
      tablesLawful w ∧ tableGet w.jr.records (w.jr.head - 1).toNat = some ⟨65547, 0, 1, 1, .RESTORING, some 6⟩ ∧
      tableGet w.dp.tracker 0 = some ⟨.RESTORE_WRITE, .sequencer, 65547, 500, none, none⟩ ∧
      chainOf w 65547 = [.restore (w.jr.head - 1)] ∧ chainOf w 65546 = [] ∧
      tableGet w.jr.records (w.jr.head - 2).toNat = some ⟨65546, 0, 1, 1, older, some 5⟩ ∧
      lowestFree { w with dp := { w.dp with tracker := tableErase w.dp.tracker 0 } } 0 := by
  cases older <;> exact ⟨rfl, rfl, rfl, rfl, rfl, by decide +kernel, by unfold ringLawful; decide +kernel,
    by unfold waterLawful; decide +kernel, by unfold tablesLawful; decide +kernel, by decide +kernel, by decide +kernel,
    by decide +kernel, by decide +kernel, by decide +kernel, by unfold lowestFree; decide +kernel⟩
theorem test_witness_RestoreWritesRemoveRecords :
    restoring.ec.stack = { epoch1 with runLength := 1, state := .RESTORING } :: [] ∧ restoring.held = false ∧
    restoring.dp.link = .UP ∧ restoring.holds = [] ∧ restoring.dp.tagWait = [] ∧
    restoring.ec.sequencer = .WRITING (restoring.jr.head - 1) ∧ ringLawful restoring ∧ waterLawful restoring ∧
    tablesLawful restoring ∧
    tableGet restoring.jr.records (restoring.jr.head - 1).toNat = some ⟨65546, 0, 1, 1, .RESTORING, some 5⟩ ∧
    tableGet restoring.dp.tracker 0 = some ⟨.RESTORE_WRITE, .sequencer, 65546, 500, none, none⟩ ∧
    chainOf restoring 65546 = [.restore (restoring.jr.head - 1)] ∧ restoring.ec.sequencer ≠ .IDLE :=
  ⟨rfl, rfl, rfl, rfl, rfl, rfl, by unfold ringLawful; decide +kernel, by unfold waterLawful; decide +kernel,
    by unfold tablesLawful; decide +kernel, by decide +kernel⟩
theorem test_witness_RestoreWritesRemoveRecords_end :
    let w : State := { opened with ec := { opened.ec with stack := [{ epoch1 with state := .RESTORING }] } }
    w.ec.stack = { epoch1 with state := .RESTORING } :: [] ∧ w.holds = [] ∧ w.dp.tagWait = [] ∧ w.ec.sequencer = .IDLE ∧
      epoch1.runLength = 0 := by decide +kernel
theorem test_witness_FailedRestoresHaltTheEpoch :
    restoring.ec.stack = { epoch1 with runLength := 1, state := .RESTORING } :: [] ∧ restoring.ec.sequencer = .WRITING 0 ∧
    restoring.dp.tagWait = [] ∧ tableGet restoring.jr.records (0 : Slot).toNat = some ⟨65546, 0, 1, 1, .RESTORING, some 5⟩ ∧
    restoring.lht = [((65546 : Line).toNat, [.restore 0])] ∧
    tableGet restoring.dp.tracker 0 = some ⟨.RESTORE_WRITE, .sequencer, 65546, 500, none, none⟩ ∧ restoring.upLink = .UP ∧
    restoring.holds = [] ∧ restoring.held = false ∧ restoring.dp.link = .UP ∧
    500 ≤ ({ restoring with now := 500 } : State).now := by decide +kernel
theorem test_witness_FailedRestoresHaltTheEpoch_held :
    let w : State := { restoring with
      contexts := [(3, ⟨.READ, 65700, .HELD, none, none, none⟩)]
      holds := [⟨3, 65700, .OPERATION, none⟩] }
    w.ec.sequencer = .WRITING 0 ∧ w.dp.tagWait = [] ∧ w.holds = [⟨3, 65700, .OPERATION, none⟩] ∧
      contextOf w 3 = some ⟨.READ, 65700, .HELD, none, none, none⟩ ∧ isJournalLine w 65700 = true := by decide +kernel
theorem test_witness_WaitingStepsAreIssued : (waiting .READ 65546).held = false ∧ (waiting .READ 65546).dp.link = .UP ∧
    lowestFree (waiting .READ 65546) 0 ∧ (waiting .READ 65546).dp.tagWait = [.host 3] ∧
    chainOf (waiting .READ 65546) 65546 = .host 3 :: [] ∧ entersChain (waiting .READ 65546) 65546 .READ ∧
    contextOf (waiting .READ 65546) 3 = some ⟨.READ, 65546, .QUEUED, none, none, none⟩ ∧
    needsCapture (waiting (.WRITE 1 2) 65546) 65546 0 epoch1 [] 1 ∧ 1 ≤ freeCount (waiting (.WRITE 1 2) 65546).jr :=
  ⟨rfl, rfl, by unfold lowestFree; decide +kernel, rfl, by decide +kernel, by unfold entersChain openOrEmpty; decide +kernel, by decide +kernel,
    by unfold needsCapture captureCalled; decide +kernel, by decide +kernel⟩
theorem test_witness_WaitingStepsAreIssued_draining :
    let e : Epoch := { epoch1 with state := .DRAINING, pending := some .COMMIT }
    let w : State := { waiting (.WRITE 1 2) 65546 with ec := ⟨[e], 1, some .MGMT, .IDLE, false⟩ }
    contextOf w 3 = some ⟨.WRITE 1 2, 65546, .QUEUED, none, none, none⟩ ∧ captureCalled w 65546 0 e [] 1 ∧
      e.state = .DRAINING ∧ 1 ≤ freeCount w.jr ∧ lowestFree w 0 :=
  ⟨by decide +kernel, by unfold captureCalled; decide +kernel, rfl, by decide +kernel, by unfold lowestFree; decide +kernel⟩
theorem test_witness_WaitingStepsAreIssued_restore :
    let w : State := { restoring with
      ec := { restoring.ec with sequencer := .PLACED 0 }, dp := { opened.dp with tagWait := [.restore 0] } }
    w.ec.sequencer = .PLACED 0 ∧ w.dp.tagWait = [.restore 0] ∧ innermostState w = some .RESTORING ∧
      chainOf w 65546 = .restore 0 :: [] ∧ lowestFree w 0 :=
  ⟨rfl, rfl, by decide +kernel, by decide +kernel, by unfold lowestFree; decide +kernel⟩
theorem test_witness_UpstreamLinkChanges : laid.upLink = .UP ∧ State.reset.upLink = .DOWN ∧ State.reset.held = false ∧
    innermostState inFlight ≠ some .DRAINING ∧ tablesLawful inFlight :=
  ⟨rfl, rfl, rfl, by decide +kernel, by unfold tablesLawful; decide +kernel⟩
theorem test_witness_DownstreamLinkChanges : laid.dp.link = .UP ∧ State.reset.dp.link = .DOWN ∧ laid.upLink = .UP ∧
    tablesLawful laid ∧ laid.holds = [] ∧ laid.dp.tagWait = [] ∧ laid.dp.tracker = [] ∧
    innermostState laid ≠ some .DRAINING :=
  ⟨rfl, rfl, rfl, by unfold tablesLawful; decide +kernel, by decide +kernel⟩
theorem test_witness_DownstreamLinkChanges_forwarded :
    let w := forwarded .READ .FORWARD_READ laid
    tablesLawful w ∧ w.dp.tracker = [((0 : DownTag).val, ⟨.FORWARD_READ, .context 3, 7, 500, none, none⟩)] ∧
      contextOf w 3 = some ⟨.READ, 7, .FORWARDED, none, none, some 0⟩ ∧ chainOf w 7 = [.host 3] ∧
      lastWrite.dp.tracker = [((0 : DownTag).val, ⟨.FORWARD_WRITE, .context 3, 65546, 500, none, none⟩)] ∧
      innermostState lastWriteDone = some .DRAINING ∧ drainSet lastWriteDone = [] :=
  ⟨by unfold tablesLawful; decide +kernel, by decide +kernel⟩
theorem test_witness_DownstreamLinkChanges_capture : tablesLawful capturing ∧
    capturing.dp.tracker = [((0 : DownTag).val, ⟨.CAPTURE_READ, .context 3, 65546, 500, none, none⟩)] ∧
    contextOf capturing 3 = some ⟨.WRITE 1 2, 65546, .CAPTURING, some 0, some 0, some 0⟩ ∧
    tableGet capturing.jr.records (0 : Slot).toNat = some ⟨65546, 0, 1, 1, .RESERVED, none⟩ ∧
    lookup capturing 65546 = some 0 ∧ innermostState capturing ≠ some .DRAINING :=
  ⟨by unfold tablesLawful; decide +kernel, by decide +kernel⟩
theorem test_witness_DownstreamLinkChanges_orphan :
    let w : State := { orphanedRead with upLink := .UP }
    tablesLawful w ∧ w.dp.tracker = [((0 : DownTag).val, ⟨.CAPTURE_READ, .orphaned, 65546, 500, some 0, some 0⟩)] ∧
      chainOf w 65546 = [.orphan 0] ∧ lookup w 65546 = some 0 ∧ innermostState w ≠ some .DRAINING :=
  ⟨by unfold tablesLawful; decide +kernel, by decide +kernel⟩
theorem test_witness_DownstreamLinkChanges_waiting :
    let w := waiting .READ 65546
    let v : State := { opened with
      contexts := [(3, ⟨.WRITE 1 2, 65546, .SPACE_WAIT, none, none, none⟩)]
      lht := [(65546, [.host 3])]
      holds := [⟨3, 65546, .SPACE, none⟩] }
    tablesLawful w ∧ tablesLawful v ∧ w.dp.tracker = [] ∧ w.dp.tagWait = [.host 3] ∧ w.holds = [] ∧
      chainOf w 65546 = [.host 3] ∧ innermostState w ≠ some .DRAINING ∧ v.dp.tagWait = [] ∧ v.dp.tracker = [] ∧
      contextOf v 3 = some ⟨.WRITE 1 2, 65546, .SPACE_WAIT, none, none, none⟩ ∧ chainOf v 65546 = [.host 3] :=
  ⟨by unfold tablesLawful; decide +kernel, by unfold tablesLawful; decide +kernel, by decide +kernel⟩
theorem test_witness_DownstreamLinkChanges_restore :
    let w : State := { restoring with
      ec := { restoring.ec with sequencer := .PLACED 0 }, dp := { opened.dp with tagWait := [.restore 0] } }
    tablesLawful restoring ∧ tablesLawful w ∧ restoring.holds = [] ∧ restoring.ec.sequencer = .WRITING 0 ∧
      restoring.lht = [((65546 : Line).toNat, [.restore 0])] ∧ restoring.dp.tracker =
        [((0 : DownTag).val, ⟨.RESTORE_WRITE, .sequencer, 65546, 500, none, none⟩)] ∧
      tableGet restoring.jr.records (0 : Slot).toNat = some ⟨65546, 0, 1, 1, .RESTORING, some 5⟩ ∧
      w.ec.sequencer = .PLACED 0 ∧ w.dp.tagWait = [.restore 0] ∧ w.dp.tracker = [] :=
  ⟨by unfold tablesLawful; decide +kernel, by unfold tablesLawful; decide +kernel, by decide +kernel⟩

/-- A placed restore step waits for a tag, and behind it host tag 3's read of a JOURNAL line. -/
def bothWait : State :=
  { restoring with
    ec := { restoring.ec with sequencer := .PLACED 0 }
    contexts := [(3, ⟨.READ, 65700, .QUEUED, none, none, none⟩)]
    lht := [(65546, [.restore 0]), (65700, [.host 3])]
    dp := ⟨.UP, [], [], [.restore 0, .host 3]⟩ }

-- R128, step 5: the waiting host request is answered ERROR, and the restore step's failure halts the epoch.
theorem test_downstream_down_fails_waiters :
    after (exec .downstreamLinkDown bothWait)
      (fun t => t.upTx = [⟨3, .READ, .ERROR, none⟩] && t.ec.stack.map (·.state) = [.HALTED]) = true := by decide +kernel
theorem test_witness_DownstreamLinkChanges_both : bothWait.held = false ∧ bothWait.upLink = .UP ∧ bothWait.dp.link = .UP ∧
    tablesLawful bothWait ∧ bothWait.ec.stack = { epoch1 with runLength := 1, state := .RESTORING } :: [] ∧
    bothWait.holds = [] ∧ bothWait.dp.tracker = [] ∧ bothWait.ec.sequencer = .PLACED 0 ∧
    bothWait.dp.tagWait = [.restore 0, .host 3] ∧
    tableGet bothWait.jr.records (0 : Slot).toNat = some ⟨65546, 0, 1, 1, .RESTORING, some 5⟩ ∧
    contextOf bothWait 3 = some ⟨.READ, 65700, .QUEUED, none, none, none⟩ ∧ chainOf bothWait 65700 = [.host 3] ∧
    tableErase bothWait.lht (65700 : Line).toNat = [((65546 : Line).toNat, [.restore 0])] :=
  ⟨rfl, rfl, rfl, by unfold tablesLawful; decide +kernel, rfl, rfl, rfl, rfl, rfl, by decide +kernel, by decide +kernel,
    by decide +kernel, by decide +kernel⟩

/-- Watch 0 of section 11.7, and rule 0 with an action. -/
def steered (a : EpochOp) : State :=
  { laid with wu := ⟨laid.wu.watches.set 0 ⟨true, 196608, 0, 0xA5A50001, 0xFFFFFFFF⟩,
    laid.wu.rules.set 0 ⟨true, [⟨0, none⟩], 1, a, false⟩⟩ }

/-- `s` with watch 0 of section 11.7, and both rules watching it, with their actions. -/
def ruled (s : State) (a b : Option EpochOp) : State :=
  { s with wu := ⟨laid.wu.watches.set 0 ⟨true, 196608, 0, 0xA5A50001, 0xFFFFFFFF⟩,
    #v[⟨a.isSome, [⟨0, none⟩], 1, a.getD .MRK, false⟩, ⟨b.isSome, [⟨0, none⟩], 1, b.getD .MRK, false⟩]⟩ }

-- R136: both rules fire at one write, rule 0's request before rule 1's.
theorem test_both_rules_fire :
    after (exec (.writeRequest 3 196608 0xF 0xA5A50001) (ruled laid (some .CMT) (some .MRK)))
      (fun t => t.eq.queue.map (·.kind) = [.RULE_FIRED, .REFUSED, .RULE_FIRED, .OPENED]) = true := by decide +kernel
-- R136: the write that completes rule 1 fires it, though rule 0's CMT first lets another write to a watched line go.
theorem test_rule_1_fires_for_the_completing_write :
    after (exec (.writeRequest 3 196608 0xF 0xA5A50001)
      { ruled held1 (some .CMT) none with
        wu := ⟨(ruled held1 none none).wu.watches.set 1 ⟨true, 65600, 0, 0xA5A50001, 0xFFFFFFFF⟩,
          #v[⟨true, [⟨0, none⟩], 1, .CMT, false⟩, ⟨true, [⟨0, none⟩, ⟨1, some 100⟩], 1, .RBK, false⟩]⟩
        contexts := [(4, ⟨.WRITE 0xF 0xA5A50001, 65600, .SPACE_WAIT, none, none, none⟩)]
        lht := [(65600, [.host 4])]
        holds := [⟨4, 65600, .SPACE, none⟩] })
      (fun t => t.eq.queue.any fun e => e.kind = .RULE_FIRED && e.line = some 196608 && e.detail = 1 + 256 * 2) = true := by
  decide +kernel
theorem ruled_ready (s : State) (a b : Option EpochOp) (hd : s.dp = ⟨.UP, [], [], []⟩) : tagReady (ruled s a b) 0 :=
  up_tag hd
theorem ruled_outside (s : State) (a b : Option EpochOp) (h : s.regions = laid.regions) :
    modeOf (ruled s a b) 196608 = .PASS := by
  have e : modeOf (ruled s a b) 196608 = modeOf laid 196608 := by
    simp only [modeOf, lookup, ruled, h]
  rw [e]; decide +kernel
theorem outside_pass {s : State} {line : Line} (h : modeOf s line = .PASS) : needsNoCapture s line :=
  .inl (by rw [h]; decide)
theorem test_witness_RulesFire : accepts (steered .MRK) 3 ∧ chainOf (steered .MRK) 196608 = [] ∧ tagReady (steered .MRK) 0 ∧
    entersChain (steered .MRK) 196608 (.WRITE 0xF 0xA5A50001) ∧ needsNoCapture (steered .MRK) 196608 ∧
    ruleFires (steered .MRK) 196608 0xF 0xA5A50001 (steered .MRK).wu.rules[(0 : Fin 2)] ∧
    ¬ ruleFires (steered .MRK) 196608 0xF 0xA5A50001 (steered .MRK).wu.rules[(1 : Fin 2)] ∧
    openOrEmpty (steered .MRK) ∧ (steered .MRK).ip.free ≠ [] ∧ refusalOf (steered .CMT) .CMT = some .EMPTY :=
  ⟨by unfold accepts; decide +kernel, by decide +kernel, up_tag rfl, by unfold entersChain openOrEmpty; decide +kernel,
    .inl (by decide +kernel), by unfold ruleFires; decide +kernel, by unfold ruleFires; decide +kernel,
    by unfold openOrEmpty; decide +kernel, by decide +kernel⟩
theorem test_witness_RulesFire_rule_1 :
    let w := ruled opened none (some .MRK)
    accepts w 3 ∧ chainOf w 196608 = [] ∧ tagReady w 0 ∧ entersChain w 196608 (.WRITE 0xF 0xA5A50001) ∧
      needsNoCapture w 196608 ∧ ruleFires w 196608 0xF 0xA5A50001 w.wu.rules[(1 : Fin 2)] ∧
      ¬ ruleFires w 196608 0xF 0xA5A50001 w.wu.rules[(0 : Fin 2)] ∧ openOrEmpty w ∧ w.ec.stack.length < 4 ∧
      w.ip.free = 2 :: [3, 4, 5, 6, 7, 8, 9, 10, 11, 12, 13, 14, 15] ∧ w.ec.counter.toNat ≠ 4294967295 :=
  ⟨by unfold accepts; decide +kernel, by decide +kernel, ruled_ready _ _ _ rfl, .inl (ruled_outside _ _ _ rfl),
    outside_pass (ruled_outside _ _ _ rfl), by unfold ruleFires; decide +kernel, by unfold ruleFires; decide +kernel,
    by unfold openOrEmpty; decide +kernel, by decide +kernel⟩
theorem test_witness_RulesFire_closing :
    let w := ruled inFlight (some .ABN) none
    contextOf w 4 = none ∧ w.ec.stack = { epoch1 with runLength := 1 } :: [] ∧ w.wu.rules[(0 : Fin 2)].action = .ABN ∧
      drainSet { w with
        contexts := tableSet w.contexts 4 ⟨.WRITE 0xF 0xA5A50001, 196608, .FORWARDED, none, none, some 1⟩
        lht := tableSet w.lht 196608 [.host 4] } ≠ [] := by decide +kernel
theorem test_witness_RulesFire_both :
    let w := ruled laid (some .CMT) (some .ABN)
    w.ec.stack = [] ∧ ∀ k : Fin 2, ruleFires w 196608 0xF 0xA5A50001 w.wu.rules[k] ∧ w.wu.rules[k].action ≠ .MRK :=
  ⟨rfl, by unfold ruleFires; decide +kernel⟩

/-! One state that meets every law, with a step that answers a next state. -/

/-- `capturing` with the reply to its capture read waiting; all the identifiers in their places. -/
def lawful : State := { capturing with pending := [.readReply 0 (.OK 9)] }

theorem test_witness_laws_step : ∃ t, step lawful = .next t := next_of (by decide +kernel)
theorem test_witness_EventQueueStaysLawful : queueBounded lawful ∧ eventsNumbered lawful ∧ alertRight lawful :=
  ⟨by unfold queueBounded; decide +kernel, by unfold eventsNumbered; decide +kernel, by unfold alertRight; decide +kernel⟩
theorem test_witness_IdentifiersStayPlaced : identifiersPlaced lawful := by unfold identifiersPlaced; decide +kernel
theorem test_witness_StampsStayAccounted : stampsAccounted lawful := by unfold stampsAccounted; decide +kernel
theorem test_witness_StackStaysLawful : stackLawful lawful ∧ pendingLawful lawful ∧ sequencerLawful lawful :=
  ⟨⟨by decide +kernel, ⟨rfl, trivial⟩, by decide +kernel, by decide +kernel, by decide +kernel⟩, by unfold pendingLawful; decide +kernel, fun h => absurd rfl h⟩
theorem test_witness_RingStaysLawful : ringLawful lawful ∧ waterLawful lawful ∧ recordsPlaced lawful :=
  ⟨by unfold ringLawful; decide +kernel, by unfold waterLawful; decide +kernel, by
    intro slot
    have used : usedCount lawful.jr = 1 := by decide +kernel
    have tail : lawful.jr.tail = 0 := rfl
    have recs : lawful.jr.records = [(0, ⟨65546, 0, 1, 1, .RESERVED, none⟩)] := rfl
    rw [used, tail, recs, show slot - 0 = slot from BitVec.sub_zero slot]
    by_cases h : slot.toNat = 0 <;> simp [tableGet, h]⟩
theorem laid_apart : regionsApart laid := by
  have h : ∀ k : Fin 8, k ≠ 0 → k ≠ 1 → laid.regions[k].installed = false := by decide +kernel
  have none_covers : ∀ k : Fin 8, k ≠ 0 → k ≠ 1 → ∀ line, laid.regions[k].covers line = false := fun k h0 h1 line => by
    simp only [Region.covers, h k h0 h1, Bool.false_and]
  have apart : ∀ line, ¬ (laid.regions[(0 : Fin 8)].covers line = true ∧ laid.regions[(1 : Fin 8)].covers line = true) := by
    intro line
    have e0 : laid.regions[(0 : Fin 8)] = ⟨true, 65536, 16384, .JOURNAL, 0⟩ := by decide +kernel
    have e1 : laid.regions[(1 : Fin 8)] = ⟨true, 131072, 64, .FENCE, 0⟩ := by decide +kernel
    have n0 : (65536 : Line).toNat = 65536 := by decide +kernel
    have n1 : (131072 : Line).toNat = 131072 := by decide +kernel
    rw [e0, e1]
    simp only [Region.covers, Bool.and_eq_true, decide_eq_true_eq, n0, n1]
    omega
  intro j k hjk line hc
  by_cases hj0 : j = 0
  · by_cases hk1 : k = 1
    · subst hj0 hk1; exact apart line hc
    · rw [none_covers k (fun h => hjk (by rw [hj0, h])) hk1 line] at hc; exact Bool.false_ne_true hc.2
  · by_cases hj1 : j = 1
    · by_cases hk0 : k = 0
      · subst hj1 hk0; exact apart line hc.symm
      · rw [none_covers k hk0 (fun h => hjk (by rw [hj1, h])) line] at hc; exact Bool.false_ne_true hc.2
    · rw [none_covers j hj0 hj1 line] at hc; exact Bool.false_ne_true hc.1
theorem test_witness_TablesStayLawful : tablesLawful lawful ∧ regionsLawful lawful ∧ regionsApart lawful ∧ configLawful lawful :=
  ⟨by unfold tablesLawful; decide +kernel, by unfold regionsLawful; decide +kernel, laid_apart, by unfold configLawful; decide +kernel⟩
theorem test_witness_TagsAndLinksStayLawful : tagsApart lawful ∧ downLinkLawful lawful ∧ upLinkLawful lawful :=
  ⟨by unfold tagsApart; decide +kernel, nofun, nofun⟩
theorem test_witness_WorkStaysTiedToContexts : workLawful lawful := by unfold workLawful; decide +kernel

/-! ## The step -/

theorem test_step_takes_front :
    after (step { up with pending := [.csNFallingEdge, .powerOn] }) (fun t => t.pending = [.powerOn] && !t.held) = true := by
  decide
theorem test_step_on_empty_queue : after (step State.reset) (fun t => t.now = 1) = true := by decide
theorem test_no_word_spells_a_command : decodeTableWord 8 2 = none := rfl

end Sys2Proof.Tests
end

section
/-! PROOFS. The region commands RGI, RGR, RGM and RGQ (01 R3 to R7), after what every whole frame of a known command
comes to (10 R153 to R155). -/

namespace Sys2Proof.Machine

open Sys2Proof.Safety

/-! ## Whole frames and their answers -/

section
variable {s : State} {f : Frame} {code : Byte} {n : Nat}

theorem frameTaken_of_takesFrames (h : takesFrames s) : frameTaken s = true := by
  obtain ⟨hheld, hframe⟩ := h
  cases hf : s.mp.frame with
  | none => simp [frameTaken, hheld, hf]
  | some p =>
    obtain ⟨r, taken⟩ := p
    cases taken with
    | false => exact absurd hf (hframe r)
    | true => simp [frameTaken, hheld, hf]

/-- A whole frame that is taken ends, and its command is carried out. -/
theorem onFrame_of_takesFrames (ht : takesFrames s) (hw : wholeFrame f n)
    (act : State → Host.Outcome State Fault Refusal) : onFrame code n f s act = act (closeFrame s) :=
  onFrame_whole (frameTaken_of_takesFrames ht) hw.1 hw.2

theorem answerOk_closeFrame (bs : List Byte) :
    answerOk code f bs (closeFrame s) = .next (answered s code f .OK none (resultOf bs)) := rfl

theorem answerOk_empty_closeFrame :
    answerOk code f [] (closeFrame s) = .next (answered s code f .OK none noResult) := by
  rw [answerOk_closeFrame, resultOf_nil]

theorem answerStatus_closeFrame (st : ReplyStatus) :
    answerStatus code f st (closeFrame s) = .next (answered s code f st none noResult) := by
  rw [← resultOf_nil]; rfl

theorem answerRefused_closeFrame (r : Reason) :
    answerRefused code f r (closeFrame s) = .next (answered s code f .REFUSED (some r) noResult) := by
  rw [← resultOf_nil]; rfl

/-- An OK answer that also writes a slot of the region table. -/
theorem answerOk_setRegion_closeFrame (k : Fin 8) (r : Region) :
    answerOk code f [] (setRegion k r (closeFrame s)) =
      .next (answered { s with regions := s.regions.set k r } code f .OK none noResult) :=
  answerOk_empty_closeFrame (s := setRegion k r s)

end

/-! ## Operands -/

theorem modeOfCode_eq_some_iff (n : Nat) (m : Mode) : modeOfCode n = some m ↔ m.code = n := by
  constructor
  · intro h
    match n with
    | 0 | 1 | 2 => cases h; rfl
    | n + 3 => cases h
  · rintro rfl
    cases m <;> rfl

theorem modeOfCode_eq_none_iff (n : Nat) : modeOfCode n = none ↔ 2 < n := by
  match n with
  | 0 | 1 | 2 => simp [modeOfCode]
  | n + 3 => simp [modeOfCode]

/-- A slot number up to 7 is read as that slot. -/
theorem slot_of_argument {n : Nat} {k : Fin 8} (h : n = k.val) : Fin.ofNat 8 n = k := by
  rw [h, Fin.ofNat_val_eq_self]

theorem regionArgumentsOk_iff (slot base length : Nat) : regionArgumentsOk slot base length = true ↔
    slot ≤ 7 ∧ base < 2 ^ 34 ∧ length ≠ 0 ∧ length ≤ 32768 ∧ base + length ≤ 2 ^ 34 := by
  simp only [regionArgumentsOk, Config.lineSpace, Config.partitionSize, Bool.and_eq_true, decide_eq_true_eq,
    bne_iff_ne, and_assoc]

/-- The arguments 01 R3 rejects are those that fail the range checks or name no mode. -/
theorem regionArgumentsBad_iff (f : Frame) : regionArgumentsBad f ↔
    regionArgumentsOk (argument f 0 1) (argument f 1 5) (argument f 6 2) = false ∨
      modeOfCode (argument f 8 1) = none := by
  rw [← Bool.not_eq_true, regionArgumentsOk_iff, modeOfCode_eq_none_iff, regionArgumentsBad]
  omega

/-! ## RGI (01 R3, R4) -/

/-- A stretch meets an installed region exactly when some line of the stretch is covered: where they meet, the greater
of the two bases is such a line. -/
theorem stretchesMeet_iff_covers {base length : Nat} {r : Region} (hlen : 1 ≤ length) (hend : base + length ≤ 2 ^ 34)
    (hr : r.installed = true → 1 ≤ r.length) :
    (r.installed && stretchesMeet base length r.base.toNat r.length) = true ↔
      ∃ line : Line, r.covers line = true ∧ base ≤ line.toNat ∧ line.toNat < base + length := by
  simp only [Region.covers, stretchesMeet, Bool.and_eq_true, decide_eq_true_eq]
  constructor
  · rintro ⟨hi, hlo, hhi⟩
    have hrlen := hr hi
    have hline : (BitVec.ofNat 34 (max base r.base.toNat)).toNat = max base r.base.toNat :=
      Nat.mod_eq_of_lt (by omega)
    refine ⟨BitVec.ofNat 34 (max base r.base.toNat), ?_⟩
    rw [hline]
    refine ⟨⟨⟨hi, ?_⟩, ?_⟩, ?_, ?_⟩ <;> omega
  · rintro ⟨line, ⟨⟨hi, hlo⟩, hhi⟩, hlo', hhi'⟩
    refine ⟨hi, ?_, ?_⟩ <;> omega

section
variable {s : State} {k : Fin 8} {base length : Nat}

theorem installRefusal_open (h : s.ec.stack ≠ []) : installRefusal s k base length = some .OPEN :=
  if_pos h

theorem installRefusal_occupied (hs : s.ec.stack = []) (hk : s.regions[k].installed = true) :
    installRefusal s k base length = some .OCCUPIED := by
  simp only [installRefusal, hs, hk, ne_eq, not_true_eq_false, if_false, if_true]

/-- The test of OVERLAP, line by line (01 R4). -/
theorem any_stretchesMeet_iff (hr : regionsLawful s) (hlen : 1 ≤ length) (hend : base + length ≤ 2 ^ 34) :
    ((List.finRange 8).any fun j =>
        s.regions[j].installed && stretchesMeet base length s.regions[j].base.toNat s.regions[j].length) = true ↔
      ∃ (j : Fin 8) (line : Line), s.regions[j].covers line = true ∧ base ≤ line.toNat ∧
        line.toNat < base + length := by
  have hmeet (j : Fin 8) := stretchesMeet_iff_covers hlen hend fun hi => (hr j hi).1
  simp only [List.any_eq_true, List.mem_finRange, true_and, hmeet]

theorem installRefusal_overlap (hs : s.ec.stack = []) (hk : s.regions[k].installed = false)
    (hr : regionsLawful s) (hlen : 1 ≤ length) (hend : base + length ≤ 2 ^ 34)
    (hcov : ∃ (j : Fin 8) (line : Line), s.regions[j].covers line = true ∧ base ≤ line.toNat ∧
      line.toNat < base + length) : installRefusal s k base length = some .OVERLAP := by
  simp only [installRefusal, hs, hk, ne_eq, not_true_eq_false, Bool.false_eq_true, if_false,
    if_pos ((any_stretchesMeet_iff hr hlen hend).mpr hcov)]

theorem installRefusal_none (hs : s.ec.stack = []) (hk : s.regions[k].installed = false)
    (hr : regionsLawful s) (hlen : 1 ≤ length) (hend : base + length ≤ 2 ^ 34)
    (hfree : ∀ (j : Fin 8) (line : Line), base ≤ line.toNat → line.toNat < base + length →
      s.regions[j].covers line = false) : installRefusal s k base length = none := by
  have hcov : ¬ ∃ (j : Fin 8) (line : Line), s.regions[j].covers line = true ∧ base ≤ line.toNat ∧
      line.toNat < base + length := by
    rintro ⟨j, line, hc, hlo, hhi⟩
    exact Bool.eq_false_iff.mp (hfree j line hlo hhi) hc
  simp only [installRefusal, hs, hk, ne_eq, not_true_eq_false, Bool.false_eq_true, if_false,
    if_neg (mt (any_stretchesMeet_iff hr hlen hend).mp hcov)]

end

section
variable {s : State} {f : Frame} {k : Fin 8} {m : Mode}

theorem exec_rgi_bad (ht : takesFrames s) (hw : wholeFrame f 9) (hb : regionArgumentsBad f) :
    exec (.rgi f) s = .next (answered s 0x10 f .BAD_ARGUMENT none noResult) := by
  change execRgi f s = _
  rw [execRgi, onFrame_of_takesFrames ht hw, ← answerStatus_closeFrame]
  rcases (regionArgumentsBad_iff f).mp hb with h | h
  · rw [h]
  · rw [h]
    cases regionArgumentsOk (argument f 0 1) (argument f 1 5) (argument f 6 2) <;> rfl

/-- Good arguments, a refusal test that holds. -/
theorem exec_rgi_refused {r : Reason} (ht : takesFrames s) (hw : wholeFrame f 9) (hb : ¬ regionArgumentsBad f)
    (hk : argument f 0 1 = k.val) (hr : installRefusal s k (argument f 1 5) (argument f 6 2) = some r) :
    exec (.rgi f) s = .next (answered s 0x10 f .REFUSED (some r) noResult) := by
  rw [regionArgumentsBad_iff, not_or, Bool.not_eq_false, ← ne_eq, Option.ne_none_iff_exists'] at hb
  obtain ⟨hok, m, hm⟩ := hb
  have hr' : installRefusal (closeFrame s) k (argument f 1 5) (argument f 6 2) = some r := hr
  change execRgi f s = _
  rw [execRgi, onFrame_of_takesFrames ht hw]
  simp only [hok, hm, slot_of_argument hk, hr', answerRefused_closeFrame]

/-- Good arguments and no refusal: the slot is written. -/
theorem exec_rgi_installs (ht : takesFrames s) (hw : wholeFrame f 9) (hb : ¬ regionArgumentsBad f)
    (hk : argument f 0 1 = k.val) (hm : m.code = argument f 8 1)
    (hr : installRefusal s k (argument f 1 5) (argument f 6 2) = none) :
    exec (.rgi f) s = .next (answered { s with
      regions := s.regions.set k ⟨true, BitVec.ofNat 34 (argument f 1 5), argument f 6 2, m, 0⟩ }
      0x10 f .OK none noResult) := by
  rw [regionArgumentsBad_iff, not_or, Bool.not_eq_false] at hb
  have hr' : installRefusal (closeFrame s) k (argument f 1 5) (argument f 6 2) = none := hr
  change execRgi f s = _
  rw [execRgi, onFrame_of_takesFrames ht hw]
  simp only [hb.1, (modeOfCode_eq_some_iff _ _).mpr hm, slot_of_argument hk, hr', answerOk_setRegion_closeFrame]

/-! ## RGR (01 R5) -/

theorem exec_rgr_bad (ht : takesFrames s) (hw : wholeFrame f 1) (hk : 7 < argument f 0 1) :
    exec (.rgr f) s = .next (answered s 0x11 f .BAD_ARGUMENT none noResult) := by
  change execRgr f s = _
  rw [execRgr, onFrame_of_takesFrames ht hw, if_pos hk, answerStatus_closeFrame]

theorem exec_rgr_refused (ht : takesFrames s) (hw : wholeFrame f 1) (hk : argument f 0 1 = k.val)
    (hs : s.ec.stack ≠ []) : exec (.rgr f) s = .next (answered s 0x11 f .REFUSED (some .OPEN) noResult) := by
  have hslot : ¬ 7 < argument f 0 1 := by omega
  change execRgr f s = _
  rw [execRgr, onFrame_of_takesFrames ht hw, if_neg hslot, closeFrame_ec, if_pos hs, answerRefused_closeFrame]

theorem exec_rgr_clears (ht : takesFrames s) (hw : wholeFrame f 1) (hk : argument f 0 1 = k.val)
    (hs : s.ec.stack = []) : exec (.rgr f) s =
      .next (answered { s with regions := s.regions.set k ⟨false, 0, 0, .PASS, 0⟩ } 0x11 f .OK none noResult) := by
  have hslot : ¬ 7 < argument f 0 1 := by omega
  change execRgr f s = _
  rw [execRgr, onFrame_of_takesFrames ht hw, if_neg hslot, closeFrame_ec, if_neg (not_not_intro hs),
    slot_of_argument hk, answerOk_setRegion_closeFrame, Region.clear]

/-! ## RGM (01 R6) -/

theorem exec_rgm_bad (ht : takesFrames s) (hw : wholeFrame f 2) (hb : 7 < argument f 0 1 ∨ 2 < argument f 1 1) :
    exec (.rgm f) s = .next (answered s 0x12 f .BAD_ARGUMENT none noResult) := by
  change execRgm f s = _
  rw [execRgm, onFrame_of_takesFrames ht hw, ← answerStatus_closeFrame]
  cases hm : modeOfCode (argument f 1 1) with
  | none => rfl
  | some m =>
    have hmode : ¬ 2 < argument f 1 1 := fun h => by rw [(modeOfCode_eq_none_iff _).mpr h] at hm; cases hm
    exact if_pos (.inl (hb.resolve_right hmode))

theorem exec_rgm_not_installed (ht : takesFrames s) (hw : wholeFrame f 2) (hk : argument f 0 1 = k.val)
    (hi : s.regions[k].installed = false) :
    exec (.rgm f) s = .next (answered s 0x12 f .BAD_ARGUMENT none noResult) := by
  change execRgm f s = _
  rw [execRgm, onFrame_of_takesFrames ht hw, ← answerStatus_closeFrame]
  cases modeOfCode (argument f 1 1) with
  | none => rfl
  | some m => simp only [slot_of_argument hk, closeFrame_regions, hi, Bool.not_false, or_true, if_true]

/-- An installed slot and a mode: the stack alone decides. -/
theorem exec_rgm_installed (ht : takesFrames s) (hw : wholeFrame f 2) (hk : argument f 0 1 = k.val)
    (hm : m.code = argument f 1 1) (hi : s.regions[k].installed = true) :
    exec (.rgm f) s =
      if s.ec.stack ≠ [] then .next (answered s 0x12 f .REFUSED (some .OPEN) noResult)
      else .next (answered { s with regions := s.regions.set k { s.regions[k] with mode := m } }
        0x12 f .OK none noResult) := by
  have hslot : ¬ 7 < argument f 0 1 := by omega
  change execRgm f s = _
  rw [execRgm, onFrame_of_takesFrames ht hw]
  simp only [(modeOfCode_eq_some_iff _ _).mpr hm, slot_of_argument hk, closeFrame_regions, closeFrame_ec, hslot, hi,
    Bool.not_true, Bool.false_eq_true, or_false, if_false, answerRefused_closeFrame, answerOk_setRegion_closeFrame]

/-! ## RGQ (01 R7) -/

theorem exec_rgq_bad (ht : takesFrames s) (hw : wholeFrame f 1) (hk : 7 < argument f 0 1) :
    exec (.rgq f) s = .next (answered s 0x13 f .BAD_ARGUMENT none noResult) := by
  change execRgq f s = _
  rw [execRgq, onFrame_of_takesFrames ht hw, if_pos hk, answerStatus_closeFrame]

theorem exec_rgq_reports (ht : takesFrames s) (hw : wholeFrame f 1) (hk : argument f 0 1 = k.val) :
    exec (.rgq f) s = .next (answered s 0x13 f .OK none (resultOf (regionBytes s.regions[k]))) := by
  have hslot : ¬ 7 < argument f 0 1 := by omega
  change execRgq f s = _
  rw [execRgq, onFrame_of_takesFrames ht hw, if_neg hslot]
  simp only [slot_of_argument hk, closeFrame_regions, answerOk_closeFrame]

end

/-- Zeros written after the bytes of a result say nothing new (10 R155). -/
theorem resultOf_append_zeros (bs : List Byte) (n : Nat) : resultOf (bs ++ List.replicate n 0) = resultOf bs := by
  refine congrArg Vector.ofFn (funext fun i => ?_)
  by_cases h : i.val < bs.length
  · rw [List.getD_append _ _ _ _ h]
  · have hi : bs.length ≤ i.val := not_lt.mp h
    rw [List.getD_append_right _ _ _ _ hi, List.getD_eq_getElem?_getD, List.getElem?_getD_replicate_default_eq,
      List.getD_eq_default _ _ hi]

section
variable {t : State} {r : Region}

/-- The first byte of a region's report: the flag at bit 0 and the mode at bits 1 and 2 (10 section 10.7). -/
theorem field_regionBytes_flags (h : t.mp.reply.result = resultOf (regionBytes r)) :
    field t 0 1 = bit r.installed + 2 * r.mode.code := by
  have hf := field_resultOf t [] [codeByte (bit r.installed + 2 * r.mode.code)]
    (leBytes 5 r.base.toNat ++ leBytes 2 r.length ++ leBytes 4 r.count.toNat) h (by simp)
  have hlt : bit r.installed + 2 * r.mode.code < 256 := by cases r.installed <;> cases r.mode <;> decide
  simpa [leNat, codeByte, Nat.mod_eq_of_lt hlt] using hf

theorem bits_regionBytes_installed (h : t.mp.reply.result = resultOf (regionBytes r)) :
    bits t 0 0 1 = if r.installed then 1 else 0 := by
  rw [bits, field_regionBytes_flags h, bit]
  split <;> omega

theorem bits_regionBytes_mode (h : t.mp.reply.result = resultOf (regionBytes r)) : bits t 0 1 2 = r.mode.code := by
  have hmode : r.mode.code < 4 := by cases r.mode <;> decide
  have hbit : bit r.installed < 2 := by cases r.installed <;> decide
  rw [bits, field_regionBytes_flags h]
  omega

theorem field_regionBytes_base (h : t.mp.reply.result = resultOf (regionBytes r)) : field t 1 5 = r.base.toNat := by
  have hf := field_resultOf t [codeByte (bit r.installed + 2 * r.mode.code)] (leBytes 5 r.base.toNat)
    (leBytes 2 r.length ++ leBytes 4 r.count.toNat) (by simpa [regionBytes] using h) (by simp)
  have hlt : r.base.toNat < 256 ^ 5 := r.base.isLt.trans (by decide)
  simpa [leNat_leBytes_of_lt hlt] using hf

theorem field_regionBytes_length (h : t.mp.reply.result = resultOf (regionBytes r)) (hl : r.length ≤ 32768) :
    field t 6 2 = r.length := by
  have hf := field_resultOf t (codeByte (bit r.installed + 2 * r.mode.code) :: leBytes 5 r.base.toNat)
    (leBytes 2 r.length) (leBytes 4 r.count.toNat) (by simpa [regionBytes] using h) (by simp)
  have hlt : r.length < 256 ^ 2 := by omega
  simpa [leNat_leBytes_of_lt hlt] using hf

theorem field_regionBytes_count (h : t.mp.reply.result = resultOf (regionBytes r)) : field t 8 4 = r.count.toNat := by
  have hf := field_resultOf t
    (codeByte (bit r.installed + 2 * r.mode.code) :: (leBytes 5 r.base.toNat ++ leBytes 2 r.length))
    (leBytes 4 r.count.toNat) [] (by simpa [regionBytes] using h) (by simp)
  have hlt : r.count.toNat < 256 ^ 4 := r.count.isLt.trans_eq (by decide)
  simpa [leNat_leBytes_of_lt hlt] using hf

theorem field_regionBytes_rest (h : t.mp.reply.result = resultOf (regionBytes r)) : field t 12 4 = 0 := by
  rw [← resultOf_append_zeros _ 4, ← List.append_nil (regionBytes r ++ _)] at h
  have hlen : (regionBytes r).length = 12 := by simp [regionBytes]
  have hf := field_resultOf t (regionBytes r) (List.replicate 4 0) [] h (by simp [hlen])
  rwa [hlen, List.length_replicate, leNat_zeros] at hf

end

/-! ## The obligations -/

/-- Settles O10: the argument checks, then the refusal tests in order, then the install; a shared line is found at the
greater of the two bases. -/
theorem regionsAreInstalled : Obligations.RegionsAreInstalled := by
  intro f s k ht hw hr
  refine ⟨exec_rgi_bad ht hw, fun hb hk => ?_⟩
  have ⟨hlen, hend⟩ : 1 ≤ argument f 6 2 ∧ argument f 1 5 + argument f 6 2 ≤ 2 ^ 34 := by
    rw [regionArgumentsBad] at hb
    omega
  refine ⟨fun hs => ?_, fun hs hi => ?_, fun hs hi hcov => ?_, fun hs hi hfree m hm => ?_⟩
  · exact exec_rgi_refused ht hw hb hk (installRefusal_open hs)
  · exact exec_rgi_refused ht hw hb hk (installRefusal_occupied hs hi)
  · exact exec_rgi_refused ht hw hb hk (installRefusal_overlap hs hi hr hlen hend hcov)
  · exact exec_rgi_installs ht hw hb hk hm (installRefusal_none hs hi hr hlen hend hfree)

/-- Settles O11: one equation for each outcome of RGR, RGM and RGQ, and the places of the report's fields. -/
theorem regionsChangeAndAreReported : Obligations.RegionsChangeAndAreReported := by
  refine ⟨⟨fun f s ht hw => ⟨exec_rgr_bad ht hw, fun k hk => ?_⟩, fun f s ht hw =>
    ⟨exec_rgm_bad ht hw, fun k hk hi => exec_rgm_not_installed ht hw hk hi, fun k m hk hm hi => ?_⟩⟩,
    fun f s ht hw => ⟨exec_rgq_bad ht hw, fun k hk hl => ?_⟩⟩
  · exact ⟨exec_rgr_refused ht hw hk, exec_rgr_clears ht hw hk⟩
  · rw [exec_rgm_installed ht hw hk hm hi]
    exact ⟨fun hs => if_pos hs, fun hs => if_neg (not_not_intro hs)⟩
  · exact ⟨_, exec_rgq_reports ht hw hk, rfl, bits_regionBytes_installed rfl, bits_regionBytes_mode rfl,
      field_regionBytes_base rfl, field_regionBytes_length rfl hl, field_regionBytes_count rfl,
      field_regionBytes_rest rfl⟩

end Sys2Proof.Machine
end

section
/-! PROOFS. The refusal of epoch requests (02 R27, R28) and the report of an epoch (02 R34), after a rule for the fields
of a result given as a list of widths and numbers (10 R163 and section 10.7). -/

namespace Sys2Proof.Machine

open Sys2Proof.Safety

/-! ## The refusal tests (02 R27) -/

/-- The first row of a refusal table: where it applies to the operation and holds, its reason decides; else the rest
of the table does. -/
theorem find?_refusalRow (op : EpochOp) (r : Reason) (ops : List EpochOp) (b : Bool)
    (rows : List (Reason × List EpochOp × Bool)) :
    (((r, ops, b) :: rows).find? fun x => x.2.1.contains op && x.2.2).map (·.1) =
      if op ∈ ops ∧ b = true then some r
      else (rows.find? fun x => x.2.1.contains op && x.2.2).map (·.1) := by
  by_cases h : op ∈ ops ∧ b = true
  · simp [h]
  · rw [List.find?_cons_of_neg (by simpa using h), if_neg h]

/-- Every operation is one of the five. -/
theorem mem_epochOps (op : EpochOp) : op ∈ [EpochOp.MRK, .CMT, .RBK, .ABN, .DSC] := by
  cases op <;> decide

/-- The operations that close an epoch are all but MRK (02 R24). -/
theorem mem_closingOps_iff (op : EpochOp) : op ∈ [EpochOp.CMT, .RBK, .ABN, .DSC] ↔ op ≠ .MRK := by
  cases op <;> decide

theorem eq_lastSequence_iff (c : BitVec 32) : c = Config.lastSequence ↔ c.toNat = 4294967295 :=
  BitVec.toNat_inj.symm

/-! ## An epoch command that is refused (02 R28) -/

section
variable {s : State} {f : Frame} {code : Byte} {op : EpochOp}

/-- The rows of the epoch commands are one command with five codes and operations. -/
theorem exec_of_epochRow {i : Instr} (h : epochRow i = some (code, op, f)) : exec i s = commandEpoch code op f s := by
  unfold epochRow at h
  split at h <;> cases h <;> rfl

theorem refusalOf_closeFrame (s : State) (op : EpochOp) : refusalOf (closeFrame s) op = refusalOf s op := rfl

theorem commandEpoch_refused {r : Reason} (ht : takesFrames s) (hw : wholeFrame f 0) (hr : refusalOf s op = some r) :
    commandEpoch code op f s = .next (answered s code f .REFUSED (some r) noResult) := by
  rw [commandEpoch, onFrame_of_takesFrames ht hw]
  simp only [refusalOf_closeFrame, hr, answerRefused_closeFrame]

end

/-! ## Results as lists of widths and numbers (10 R163) -/

/-- The bytes of a result whose fields are these, a field as its width in bytes and its number. -/
def packed (fields : List (Nat × Nat)) : List Byte := fields.flatMap fun p => leBytes p.1 p.2

/-- The offset of the field with an index: the widths of those before it. -/
def offsetOf (fields : List (Nat × Nat)) (i : Nat) : Nat := ((fields.take i).map (·.1)).sum

theorem length_packed (fields : List (Nat × Nat)) : (packed fields).length = (fields.map (·.1)).sum := by
  simp [packed, List.length_flatMap]

/-- A field of a packed result reads as its number. -/
theorem field_packed {t : State} {fields : List (Nat × Nat)} {n v : Nat} (i : Nat)
    (h : t.mp.reply.result = resultOf (packed fields)) (hi : fields[i]? = some (n, v))
    (hl : (packed fields).length ≤ 16) (hv : v < 256 ^ n) : field t (offsetOf fields i) n = v := by
  have hsplit : packed fields = packed (fields.take i) ++ leBytes n v ++ packed (fields.drop (i + 1)) := by
    obtain ⟨hlt, hget⟩ := List.getElem?_eq_some_iff.mp hi
    conv_lhs => rw [← List.take_append_drop i fields, List.drop_eq_getElem_cons hlt, hget]
    simp [packed]
  rw [hsplit] at h hl
  have hf := field_resultOf t _ _ _ h hl
  rwa [length_packed, length_leBytes, leNat_leBytes_of_lt hv] at hf

/-- Two bytes made of one number below 256 and another. -/
theorem leBytes_two_eq (a b : Nat) (ha : a < 256) : leBytes 2 (a + 256 * b) = leBytes 1 a ++ leBytes 1 b := by
  have hlow : BitVec.ofNat 8 (a + 256 * b) = BitVec.ofNat 8 a := BitVec.eq_of_toNat_eq (by simp)
  have hhigh : (a + 256 * b) / 256 = b := by omega
  simp [leBytes, hlow, hhigh]

/-! ## The report of an epoch (02 R34 and 10 section 10.7) -/

section
variable {s t : State} {f : Frame} {e : Epoch}

theorem level_le_of_levelsRight {l : List Epoch} (h : levelsRight l) (he : e ∈ l) : e.level ≤ l.length := by
  induction l with
  | nil => cases he
  | cons x r ih =>
    obtain ⟨hx, hr⟩ := h
    rcases List.mem_cons.mp he with rfl | hmem
    · rw [hx, List.length_cons]
    · exact (ih hr hmem).trans (Nat.le_succ _)

/-- The levels of a lawful stack differ, so a level finds its epoch (02 R18). -/
theorem find?_level_of_levelsRight {l : List Epoch} (h : levelsRight l) (he : e ∈ l) :
    (l.find? fun x => x.level == e.level) = some e := by
  induction l with
  | nil => cases he
  | cons x r ih =>
    obtain ⟨hx, hr⟩ := h
    rcases List.mem_cons.mp he with rfl | hmem
    · simp
    · have hlt := level_le_of_levelsRight hr hmem
      have hne : x.level ≠ e.level := by omega
      rw [List.find?_cons_of_neg (by simpa using hne), ih hr hmem]

theorem epochAt_eq_none {level : Nat} (h : ∀ e ∈ s.ec.stack, e.level ≠ level) : epochAt s level = none :=
  List.find?_eq_none.mpr fun e he => by simpa using h e he

theorem epochAt_closeFrame (s : State) (level : Nat) : epochAt (closeFrame s) level = epochAt s level := rfl

theorem exec_epq_bad (ht : takesFrames s) (hw : wholeFrame f 1) (hb : argument f 0 1 = 0 ∨ 4 < argument f 0 1) :
    exec (.epq f) s = .next (answered s 0x25 f .BAD_ARGUMENT none noResult) := by
  change execEpq f s = _
  rw [execEpq, onFrame_of_takesFrames ht hw, if_pos hb, answerStatus_closeFrame]

theorem exec_epq_reports (ht : takesFrames s) (hw : wholeFrame f 1) (hlo : 1 ≤ argument f 0 1)
    (hhi : argument f 0 1 ≤ 4) : exec (.epq f) s =
      .next (answered s 0x25 f .OK none (resultOf (epochBytes (epochAt s (argument f 0 1))))) := by
  have hlevel : ¬ (argument f 0 1 = 0 ∨ Config.maxDepth < argument f 0 1) := by
    rw [Config.maxDepth]
    omega
  change execEpq f s = _
  rw [execEpq, onFrame_of_takesFrames ht hw, if_neg hlevel, epochAt_closeFrame, answerOk_closeFrame]

/-- The answer at a level that has an epoch. -/
theorem exec_epq_present (ht : takesFrames s) (hw : wholeFrame f 1) (hlo : 1 ≤ argument f 0 1)
    (hhi : argument f 0 1 ≤ 4) (hat : epochAt s (argument f 0 1) = some e) :
    ∃ t, exec (.epq f) s = .next t ∧ answersOk s 0x25 f t ∧
      t.mp.reply.result = resultOf (epochBytes (some e)) := by
  refine ⟨answered s 0x25 f .OK none (resultOf (epochBytes (some e))), ?_, rfl, rfl⟩
  rw [exec_epq_reports ht hw hlo hhi, hat]

/-- The fields of an epoch's report, byte by byte where a byte holds more than one; the last byte is reserved. -/
def epochFields (e : Epoch) : List (Nat × Nat) :=
  [(1, 1 + 2 * e.level + 16 * e.ids.length), (1, idAt e.ids 0 + 16 * idAt e.ids 1), (1, idAt e.ids 2 + 16 * idAt e.ids 3),
    (4, e.sequence.toNat), (2, e.runStart.toNat), (2, e.runLength),
    (1, e.state.code + 4 * pendingCode e.pending + 32 * bit e.broken), (1, e.origin.code), (2, e.restored), (1, 0)]

theorem idAt_lt (ids : List Ident) (n : Nat) : idAt ids n < 16 := (ids.getD n 0).isLt

theorem EpochState.code_lt (st : EpochState) : st.code < 4 := by cases st <;> decide

theorem pendingCode_lt (p : Option Pending) : pendingCode p < 8 := by
  rcases p with _ | p
  · decide
  · cases p <;> decide

theorem Origin.code_lt (o : Origin) : o.code < 256 := by cases o <;> decide

theorem bit_lt (b : Bool) : bit b < 2 := by cases b <;> decide

theorem resultOf_epochBytes (e : Epoch) : resultOf (epochBytes (some e)) = resultOf (packed (epochFields e)) := by
  have hids := leBytes_two_eq (idAt e.ids 0 + 16 * idAt e.ids 1) (idAt e.ids 2 + 16 * idAt e.ids 3)
    (by have h0 := idAt_lt e.ids 0; have h1 := idAt_lt e.ids 1; omega)
  have hsum : idAt e.ids 0 + 16 * idAt e.ids 1 + 256 * idAt e.ids 2 + 4096 * idAt e.ids 3 =
      idAt e.ids 0 + 16 * idAt e.ids 1 + 256 * (idAt e.ids 2 + 16 * idAt e.ids 3) := by omega
  rw [← resultOf_append_zeros _ 1, epochBytes, hsum, hids]
  rfl

/-- A field of an epoch's report. -/
theorem field_epochBytes {n v : Nat} (i : Nat) (h : t.mp.reply.result = resultOf (epochBytes (some e)))
    (hi : (epochFields e)[i]? = some (n, v)) (hv : v < 256 ^ n) : field t (offsetOf (epochFields e) i) n = v := by
  have hwidth : (packed (epochFields e)).length = 16 := length_packed _
  exact field_packed i (h.trans (resultOf_epochBytes e)) hi hwidth.le hv

/-- Byte 0: present at bit 0, the level at bits 1 to 3, the number of identifiers at bits 4 to 6. -/
theorem bits_epochBytes_head (h : t.mp.reply.result = resultOf (epochBytes (some e))) (hlevel : e.level ≤ 4)
    (hids : e.ids.length ≤ 4) : bits t 0 0 1 = 1 ∧ bits t 0 1 3 = e.level ∧ bits t 0 4 3 = e.ids.length ∧
      bits t 0 7 1 = 0 := by
  have hbyte : field t 0 1 = 1 + 2 * e.level + 16 * e.ids.length := field_epochBytes 0 h rfl (by omega)
  simp only [bits, hbyte]
  omega

/-- Bytes 1 and 2: the identifiers, own first, four bits each. -/
theorem bits_epochBytes_ids (h : t.mp.reply.result = resultOf (epochBytes (some e))) :
    bits t 1 0 4 = idAt e.ids 0 ∧ bits t 1 4 4 = idAt e.ids 1 ∧ bits t 2 0 4 = idAt e.ids 2 ∧
      bits t 2 4 4 = idAt e.ids 3 := by
  have h0 := idAt_lt e.ids 0
  have h1 := idAt_lt e.ids 1
  have h2 := idAt_lt e.ids 2
  have h3 := idAt_lt e.ids 3
  have hlow : field t 1 1 = idAt e.ids 0 + 16 * idAt e.ids 1 := field_epochBytes 1 h rfl (by omega)
  have hhigh : field t 2 1 = idAt e.ids 2 + 16 * idAt e.ids 3 := field_epochBytes 2 h rfl (by omega)
  simp only [bits, hlow, hhigh]
  omega

/-- Byte 11: the state at bits 0 and 1, pending at bits 2 to 4, broken at bit 5. -/
theorem bits_epochBytes_state (h : t.mp.reply.result = resultOf (epochBytes (some e))) :
    bits t 11 0 2 = e.state.code ∧ bits t 11 2 3 = pendingCode e.pending ∧ bits t 11 5 1 = bit e.broken ∧
      bits t 11 6 2 = 0 := by
  have hstate := EpochState.code_lt e.state
  have hpending := pendingCode_lt e.pending
  have hbroken := bit_lt e.broken
  have hbyte : field t 11 1 = e.state.code + 4 * pendingCode e.pending + 32 * bit e.broken :=
    field_epochBytes 6 h rfl (by omega)
  simp only [bits, hbyte]
  omega

/-- The fields of whole bytes. -/
theorem field_epochBytes_words (h : t.mp.reply.result = resultOf (epochBytes (some e))) (hrun : e.runLength ≤ 2048)
    (hrestored : e.restored ≤ 2048) : field t 3 4 = e.sequence.toNat ∧ field t 7 2 = e.runStart.toNat ∧
      field t 9 2 = e.runLength ∧ field t 12 1 = e.origin.code ∧ field t 13 2 = e.restored ∧ field t 15 1 = 0 :=
  ⟨field_epochBytes 3 h rfl (e.sequence.isLt.trans_eq (by decide)),
    field_epochBytes 4 h rfl (e.runStart.isLt.trans (by decide)), field_epochBytes 5 h rfl (by omega),
    field_epochBytes 7 h rfl (Origin.code_lt e.origin), field_epochBytes 8 h rfl (by omega),
    field_epochBytes 9 h rfl (by decide)⟩

end

/-! ## The obligations -/

/-- Settles O12: row by row, a test of the table is the test of `refusalOf` in its place; a command that is refused is
answered once its frame is taken. -/
theorem epochRequestsAreRefused : Obligations.EpochRequestsAreRefused := by
  refine ⟨fun s op => ?_, fun i code op f r s hi ht hw hr => ?_⟩
  · simp only [find?_refusalRow, mem_epochOps, mem_closingOps_iff, true_and, decide_eq_true_eq, ← eq_lastSequence_iff]
    simp only [List.mem_cons, List.not_mem_nil, or_false]
    rfl
  · rw [exec_of_epochRow hi, commandEpoch_refused ht hw hr]

/-- Settles O16: the level is checked, the stack's levels name one epoch at most, and its record is read field by field. -/
theorem epochsAreReported : Obligations.EpochsAreReported := by
  intro f s ht hw
  refine ⟨exec_epq_bad ht hw, fun hlo hhi hnone => ?_, fun hlo hhi hlevels e he hlevel hids hrun hrestored => ?_⟩
  · rw [exec_epq_reports ht hw hlo hhi, epochAt_eq_none hnone, epochBytes, resultOf_nil]
  · have hat : epochAt s (argument f 0 1) = some e := hlevel ▸ find?_level_of_levelsRight hlevels he
    obtain ⟨t, hexec, hok, hres⟩ := exec_epq_present ht hw hlo hhi hat
    obtain ⟨hpresent, hlevelBits, hcount, hspare⟩ := bits_epochBytes_head hres (hlevel ▸ hhi) hids
    obtain ⟨hown, hsecond, hthird, hfourth⟩ := bits_epochBytes_ids hres
    obtain ⟨hsequence, hstart, hlength, horigin, hcounted, hlast⟩ := field_epochBytes_words hres hrun hrestored
    obtain ⟨hstate, hpending, hbroken, hrest⟩ := bits_epochBytes_state hres
    exact ⟨t, hexec, hok, hpresent, hlevelBits, hcount, hspare, hown, hsecond, hthird, hfourth, hsequence, hstart,
      hlength, hstate, hpending, hbroken, hrest, horigin, hcounted, hlast⟩

end Sys2Proof.Machine
end

section
/-! PROOFS. The journal reports JST, JRQ and JRD (03 R49 to R51), after what the ring holds in a slot (03 R36). -/

namespace Sys2Proof.Machine

open Sys2Proof.Safety

/-! ## The ring (03 R36) -/

section
variable {j : Journal} {slot : Slot} {r : Record}

theorem usedCount_eq (j : Journal) :
    usedCount j = if j.full then 2048 else (j.head.toNat + 2048 - j.tail.toNat) % 2048 := by
  have hdiff : (j.head - j.tail).toNat = (j.head.toNat + 2048 - j.tail.toNat) % 2048 := by bv_omega
  rw [usedCount, hdiff]

theorem usedCount_le (j : Journal) : usedCount j ≤ 2048 := by
  rw [usedCount_eq]
  split <;> omega

theorem usedCount_add_freeCount (j : Journal) : usedCount j + freeCount j = 2048 :=
  Nat.add_sub_cancel' (usedCount_le j)

theorem freeCount_le (j : Journal) : freeCount j ≤ 2048 := Nat.sub_le _ _

theorem recordAt_of_unused (h : usedCount j ≤ (slot - j.tail).toNat) : recordAt j slot = none :=
  if_neg (by simpa [slotInUse] using h)

theorem recordAt_of_used (h : (slot - j.tail).toNat < usedCount j) (hget : tableGet j.records slot.toNat = some r) :
    recordAt j slot = some r :=
  (if_pos (by simpa [slotInUse] using h)).trans hget

/-- The epoch whose run alone holds a slot gives the slot's level. -/
theorem runLevel_of_unique {s : State} {e : Epoch} (he : e ∈ s.ec.stack) (hin : (slot - e.runStart).toNat < e.runLength)
    (honly : ∀ x ∈ s.ec.stack, (slot - x.runStart).toNat < x.runLength → x = e) : runLevel s slot = e.level := by
  have hfind : (s.ec.stack.find? fun x => inRun x.runStart x.runLength slot) = some e := by
    cases hx : s.ec.stack.find? fun x => inRun x.runStart x.runLength slot with
    | none => exact absurd (List.find?_eq_none.mp hx e he) (by simpa [inRun] using hin)
    | some x =>
      have hrun : (slot - x.runStart).toNat < x.runLength := by simpa [inRun] using List.find?_some hx
      rw [honly x (List.mem_of_find?_eq_some hx) hrun]
  rw [runLevel, hfind]

end

/-! ## The fields of the reports (10 section 10.7) -/

section
variable {t : State}

/-- The fields of JST's report; the last five bytes are reserved. -/
def journalFields (j : Journal) : List (Nat × Nat) :=
  [(2, j.head.toNat), (2, j.tail.toNat), (2, usedCount j), (2, freeCount j), (1, countState j .RESERVED),
    (2, countState j .VOID), (5, 0)]

theorem resultOf_journalBytes (j : Journal) : resultOf (journalBytes j) = resultOf (packed (journalFields j)) := by
  rw [← resultOf_append_zeros _ 5]
  rfl

theorem field_journalBytes {j : Journal} (h : t.mp.reply.result = resultOf (journalBytes j))
    (hreserved : countState j .RESERVED ≤ 64) (hvoid : countState j .VOID ≤ 2048) :
    field t 0 2 = j.head.toNat ∧ field t 2 2 = j.tail.toNat ∧ field t 4 2 = usedCount j ∧
      field t 6 2 = freeCount j ∧ field t 8 1 = countState j .RESERVED ∧ field t 9 2 = countState j .VOID ∧
      field t 11 5 = 0 := by
  rw [resultOf_journalBytes] at h
  have hwidth : (packed (journalFields j)).length ≤ 16 := (length_packed _).le
  have hused := usedCount_le j
  have hfree := freeCount_le j
  exact ⟨field_packed 0 h rfl hwidth (j.head.isLt.trans (by decide)),
    field_packed 1 h rfl hwidth (j.tail.isLt.trans (by decide)), field_packed 2 h rfl hwidth (by omega),
    field_packed 3 h rfl hwidth (by omega), field_packed 4 h rfl hwidth (by omega),
    field_packed 5 h rfl hwidth (by omega), field_packed 6 h rfl hwidth (by decide)⟩

/-- The fields of JRQ's report of a record in a run of the level given; the last five bytes are reserved. -/
def recordFields (r : Record) (level : Nat) : List (Nat × Nat) :=
  [(1, 1 + 2 * r.state.code + 16 * level), (5, r.line.toNat), (1, r.region.val + 16 * r.captureId.toNat),
    (4, r.epochSequence.toNat), (5, 0)]

theorem recordBytes_of_unused {s : State} {slot : Slot} (h : usedCount s.jr ≤ (slot - s.jr.tail).toNat) :
    recordBytes s slot = [] := by
  rw [recordBytes, recordAt_of_unused h]

theorem resultOf_recordBytes {s : State} {slot : Slot} {r : Record} (h : recordAt s.jr slot = some r) :
    resultOf (recordBytes s slot) = resultOf (packed (recordFields r (runLevel s slot))) := by
  rw [recordBytes, h, ← resultOf_append_zeros _ 5]
  rfl

theorem RecordState.code_lt (st : RecordState) : st.code < 8 := by cases st <;> decide

/-- Bytes 0 and 6 hold more than one field each; the others are whole bytes. -/
theorem field_recordFields {r : Record} {level : Nat} (h : t.mp.reply.result = resultOf (packed (recordFields r level)))
    (hlevel : level ≤ 4) :
    (bits t 0 0 1 = 1 ∧ bits t 0 1 3 = r.state.code ∧ bits t 0 4 3 = level ∧ bits t 0 7 1 = 0) ∧
      field t 1 5 = r.line.toNat ∧
      (bits t 6 0 3 = r.region.val ∧ bits t 6 3 1 = 0 ∧ bits t 6 4 4 = r.captureId.toNat) ∧
      field t 7 4 = r.epochSequence.toNat ∧ field t 11 5 = 0 := by
  have hwidth : (packed (recordFields r level)).length ≤ 16 := (length_packed _).le
  have hstate := RecordState.code_lt r.state
  have hregion : r.region.val < 8 := r.region.isLt
  have hid : r.captureId.toNat < 16 := r.captureId.isLt
  have hhead : field t 0 1 = 1 + 2 * r.state.code + 16 * level := field_packed 0 h rfl hwidth (by omega)
  have howner : field t 6 1 = r.region.val + 16 * r.captureId.toNat := field_packed 2 h rfl hwidth (by omega)
  refine ⟨?_, field_packed 1 h rfl hwidth (r.line.isLt.trans (by decide)), ?_,
    field_packed 3 h rfl hwidth (r.epochSequence.isLt.trans_eq (by decide)), field_packed 4 h rfl hwidth (by decide)⟩
  · simp only [bits, hhead]
    omega
  · simp only [bits, howner]
    omega

/-- The fields of JRD's report of a word that is present; the last eleven bytes are reserved. -/
def wordFields (w : Word) : List (Nat × Nat) := [(1, 1), (4, w.toNat), (11, 0)]

/-- A slot out of use has no word to read, whatever it once held (03 R51). -/
theorem payloadBytes_of_unused {j : Journal} {slot : Slot} (word : Fin 16)
    (h : usedCount j ≤ (slot - j.tail).toNat) : payloadBytes j slot word = [] := by
  rw [payloadBytes, recordAt_of_unused h]

/-- A RESERVED or VOID record has no word to read (03 R51). -/
theorem payloadBytes_of_unreadable {j : Journal} {slot : Slot} {r : Record} (word : Fin 16)
    (h : recordAt j slot = some r) (hstate : r.state = .RESERVED ∨ r.state = .VOID) :
    payloadBytes j slot word = [] := by
  obtain ⟨line, region, captureId, epochSequence, state, payload⟩ := r
  rcases hstate with rfl | rfl <;> rw [payloadBytes, h]

theorem resultOf_payloadBytes {j : Journal} {slot : Slot} {r : Record} {d : Data} (word : Fin 16)
    (h : recordAt j slot = some r) (hpayload : r.payload = some d) (hstate : r.state = .HELD ∨ r.state = .RESTORING) :
    resultOf (payloadBytes j slot word) = resultOf (packed (wordFields (wordOf d word))) := by
  obtain ⟨line, region, captureId, epochSequence, state, payload⟩ := r
  subst hpayload
  rw [← resultOf_append_zeros _ 11]
  rcases hstate with rfl | rfl <;> rw [payloadBytes, h] <;> rfl

theorem field_wordFields {w : Word} (h : t.mp.reply.result = resultOf (packed (wordFields w))) :
    field t 0 1 = 1 ∧ field t 1 4 = w.toNat ∧ field t 5 11 = 0 := by
  have hwidth : (packed (wordFields w)).length ≤ 16 := (length_packed _).le
  exact ⟨field_packed 0 h rfl hwidth (by decide), field_packed 1 h rfl hwidth (w.isLt.trans_eq (by decide)),
    field_packed 2 h rfl hwidth (by decide)⟩

/-- Word n of a line begins at its byte 4n, which is bit 32n (03 R51). -/
theorem toNat_wordOf_ofNat (d : Data) {n : Nat} (hn : n ≤ 15) :
    (wordOf d (Fin.ofNat 16 n)).toNat = d.toNat / 2 ^ (32 * n) % 2 ^ 32 := by
  have hval : (Fin.ofNat 16 n).val = n := Nat.mod_eq_of_lt (Nat.lt_succ_of_le hn)
  rw [wordOf, BitVec.extractLsb'_toNat, Nat.shiftRight_eq_div_pow, hval]

end

/-! ## What the three commands answer -/

/-- A slot index up to 2047 is read as that slot. -/
theorem ringSlot_of_argument {n : Nat} {slot : Slot} (h : n = slot.toNat) : BitVec.ofNat 11 n = slot := by
  rw [h, BitVec.ofNat_toNat, BitVec.setWidth_eq]

section
variable {s : State} {f : Frame} {slot : Slot} {r : Record}

/-- A command answered OK leaves its result in the reply record (10 R155). -/
theorem answersOk_of_exec {i : Instr} {code : Byte} {result : Vector Byte 16}
    (h : exec i s = .next (answered s code f .OK none result)) :
    ∃ t, exec i s = .next t ∧ answersOk s code f t ∧ t.mp.reply.result = result :=
  ⟨_, h, rfl, rfl⟩

theorem exec_jst_reports (ht : takesFrames s) (hw : wholeFrame f 0) :
    exec (.jst f) s = .next (answered s 0x30 f .OK none (resultOf (journalBytes s.jr))) := by
  change execJst f s = _
  rw [execJst, onFrame_of_takesFrames ht hw, closeFrame_jr, answerOk_closeFrame]

theorem exec_jrq_bad (ht : takesFrames s) (hw : wholeFrame f 2) (hb : 2047 < argument f 0 2) :
    exec (.jrq f) s = .next (answered s 0x31 f .BAD_ARGUMENT none noResult) := by
  change execJrq f s = _
  rw [execJrq, onFrame_of_takesFrames ht hw, if_pos (Nat.succ_le_of_lt hb), answerStatus_closeFrame]

theorem recordBytes_closeFrame (s : State) (slot : Slot) : recordBytes (closeFrame s) slot = recordBytes s slot := rfl

theorem exec_jrq_reports (ht : takesFrames s) (hw : wholeFrame f 2) (ha : argument f 0 2 = slot.toNat) :
    exec (.jrq f) s = .next (answered s 0x31 f .OK none (resultOf (recordBytes s slot))) := by
  have hslot : ¬ Config.ringSlots ≤ argument f 0 2 := by rw [ha]; exact not_le.mpr slot.isLt
  change execJrq f s = _
  rw [execJrq, onFrame_of_takesFrames ht hw, if_neg hslot, ringSlot_of_argument ha, recordBytes_closeFrame,
    answerOk_closeFrame]

theorem exec_jrq_unused (ht : takesFrames s) (hw : wholeFrame f 2) (ha : argument f 0 2 = slot.toNat)
    (hfree : usedCount s.jr ≤ (slot - s.jr.tail).toNat) :
    exec (.jrq f) s = .next (answered s 0x31 f .OK none noResult) := by
  rw [exec_jrq_reports ht hw ha, recordBytes_of_unused hfree, resultOf_nil]

/-- The answer at a slot in use that lies in one run alone. -/
theorem exec_jrq_present {e : Epoch} (ht : takesFrames s) (hw : wholeFrame f 2) (ha : argument f 0 2 = slot.toNat)
    (hat : recordAt s.jr slot = some r) (he : e ∈ s.ec.stack) (hin : (slot - e.runStart).toNat < e.runLength)
    (honly : ∀ x ∈ s.ec.stack, (slot - x.runStart).toNat < x.runLength → x = e) :
    exec (.jrq f) s = .next (answered s 0x31 f .OK none (resultOf (packed (recordFields r e.level)))) := by
  rw [exec_jrq_reports ht hw ha, resultOf_recordBytes hat, runLevel_of_unique he hin honly]

theorem exec_jrd_bad (ht : takesFrames s) (hw : wholeFrame f 3) (hb : 2047 < argument f 0 2 ∨ 15 < argument f 2 1) :
    exec (.jrd f) s = .next (answered s 0x32 f .BAD_ARGUMENT none noResult) := by
  change execJrd f s = _
  rw [execJrd, onFrame_of_takesFrames ht hw, if_pos (hb.imp_left Nat.succ_le_of_lt), answerStatus_closeFrame]

theorem exec_jrd_reports (ht : takesFrames s) (hw : wholeFrame f 3) (ha : argument f 0 2 = slot.toNat)
    (hword : argument f 2 1 ≤ 15) : exec (.jrd f) s =
      .next (answered s 0x32 f .OK none (resultOf (payloadBytes s.jr slot (Fin.ofNat 16 (argument f 2 1))))) := by
  have hok : ¬ (Config.ringSlots ≤ argument f 0 2 ∨ 15 < argument f 2 1) := by
    rw [ha]
    exact not_or.mpr ⟨not_le.mpr slot.isLt, not_lt.mpr hword⟩
  change execJrd f s = _
  rw [execJrd, onFrame_of_takesFrames ht hw, if_neg hok, ringSlot_of_argument ha, closeFrame_jr, answerOk_closeFrame]

theorem exec_jrd_unused (ht : takesFrames s) (hw : wholeFrame f 3) (ha : argument f 0 2 = slot.toNat)
    (hword : argument f 2 1 ≤ 15) (hfree : usedCount s.jr ≤ (slot - s.jr.tail).toNat) :
    exec (.jrd f) s = .next (answered s 0x32 f .OK none noResult) := by
  rw [exec_jrd_reports ht hw ha hword, payloadBytes_of_unused _ hfree, resultOf_nil]

theorem exec_jrd_unreadable (ht : takesFrames s) (hw : wholeFrame f 3) (ha : argument f 0 2 = slot.toNat)
    (hword : argument f 2 1 ≤ 15) (hat : recordAt s.jr slot = some r) (hstate : r.state = .RESERVED ∨ r.state = .VOID) :
    exec (.jrd f) s = .next (answered s 0x32 f .OK none noResult) := by
  rw [exec_jrd_reports ht hw ha hword, payloadBytes_of_unreadable _ hat hstate, resultOf_nil]

/-- The answer at a slot whose record has a payload to read. -/
theorem exec_jrd_present {d : Data} (ht : takesFrames s) (hw : wholeFrame f 3) (ha : argument f 0 2 = slot.toNat)
    (hword : argument f 2 1 ≤ 15) (hat : recordAt s.jr slot = some r) (hpayload : r.payload = some d)
    (hstate : r.state = .HELD ∨ r.state = .RESTORING) : exec (.jrd f) s = .next (answered s 0x32 f .OK none
      (resultOf (packed (wordFields (wordOf d (Fin.ofNat 16 (argument f 2 1))))))) := by
  rw [exec_jrd_reports ht hw ha hword, resultOf_payloadBytes _ hat hpayload hstate]

end

/-! ## The obligation -/

/-- Settles O17: each command answers OK with a list of fields, or with no bytes where the ring holds nothing to
report; a slot in use in one run alone is reported with that run's level. -/
theorem journalIsReported : Obligations.JournalIsReported := by
  refine ⟨fun f s ht hw hreserved hvoid => ?jst, fun f s ht hw => ⟨exec_jrq_bad ht hw, fun slot ha =>
    ⟨exec_jrq_unused ht hw ha, fun r e hused hget he hlevel hin honly => ?jrq⟩⟩,
    fun f s ht hw => ⟨exec_jrd_bad ht hw, fun slot ha hword => ⟨exec_jrd_unused ht hw ha hword, fun r hused hget =>
      ⟨exec_jrd_unreadable ht hw ha hword (recordAt_of_used hused hget), fun d hpayload hstate => ?jrd⟩⟩⟩⟩
  case jst =>
    obtain ⟨t, hexec, hok, hres⟩ := answersOk_of_exec (exec_jst_reports ht hw)
    obtain ⟨hhead, htail, hused, hfree, hreservedCount, hvoidCount, hrest⟩ := field_journalBytes hres hreserved hvoid
    have hsum : field t 4 2 + field t 6 2 = 2048 := by rw [hused, hfree, usedCount_add_freeCount]
    exact ⟨t, hexec, hok, hhead, htail, hused.trans (usedCount_eq _), hsum, hreservedCount, hvoidCount, hrest⟩
  case jrq =>
    obtain ⟨t, hexec, hok, hres⟩ :=
      answersOk_of_exec (exec_jrq_present ht hw ha (recordAt_of_used hused hget) he hin honly)
    obtain ⟨⟨hpresent, hstate, hlevelBits, hspare⟩, hline, ⟨hregion, hgap, hid⟩, hsequence, hrest⟩ :=
      field_recordFields hres hlevel
    exact ⟨t, hexec, hok, hpresent, hstate, hlevelBits, hspare, hline, hregion, hgap, hid, hsequence, hrest⟩
  case jrd =>
    obtain ⟨t, hexec, hok, hres⟩ :=
      answersOk_of_exec (exec_jrd_present ht hw ha hword (recordAt_of_used hused hget) hpayload hstate)
    obtain ⟨hpresent, hvalue, hrest⟩ := field_wordFields hres
    exact ⟨t, hexec, hok, hpresent, hvalue.trans (toNat_wordOf_ofNat d hword), hrest⟩

end Sys2Proof.Machine
end

section
/-! PROOFS. The reports of the watch unit, WTQ and RLQ (08 R141), by the fields of 10 section 10.7. -/

namespace Sys2Proof.Machine

open Sys2Proof.Safety

/-! ## A watch -/

section
variable {s t : State} {f : Frame} {w : Watch}

/-- The fields of WTQ's report; the last two bytes are reserved. -/
def watchFields (w : Watch) : List (Nat × Nat) :=
  [(1, bit w.enabled + 16 * w.word.val), (5, w.line.toNat), (4, w.value.toNat), (4, w.mask.toNat), (2, 0)]

theorem resultOf_watchBytes (w : Watch) : resultOf (watchBytes w) = resultOf (packed (watchFields w)) := by
  rw [← resultOf_append_zeros _ 2]
  rfl

/-- Byte 0 of a watch's report: enabled at bit 0, the word at bits 4 to 7. -/
theorem bits_watchBytes (h : t.mp.reply.result = resultOf (watchBytes w)) :
    bits t 0 0 1 = bit w.enabled ∧ bits t 0 1 3 = 0 ∧ bits t 0 4 4 = w.word.val := by
  rw [resultOf_watchBytes] at h
  have henabled := bit_lt w.enabled
  have hword : w.word.val < 16 := w.word.isLt
  have hbyte : field t 0 1 = bit w.enabled + 16 * w.word.val :=
    field_packed 0 h rfl (length_packed _).le (by omega)
  simp only [bits, hbyte]
  omega

/-- The fields of whole bytes. -/
theorem field_watchBytes (h : t.mp.reply.result = resultOf (watchBytes w)) :
    field t 1 5 = w.line.toNat ∧ field t 6 4 = w.value.toNat ∧ field t 10 4 = w.mask.toNat ∧ field t 14 2 = 0 := by
  rw [resultOf_watchBytes] at h
  have hwidth : (packed (watchFields w)).length ≤ 16 := (length_packed _).le
  exact ⟨field_packed 1 h rfl hwidth (w.line.isLt.trans (by decide)),
    field_packed 2 h rfl hwidth (w.value.isLt.trans_eq (by decide)),
    field_packed 3 h rfl hwidth (w.mask.isLt.trans_eq (by decide)), field_packed 4 h rfl hwidth (by decide)⟩

theorem exec_wtq_bad (ht : takesFrames s) (hw : wholeFrame f 1) (hk : 3 < argument f 0 1) :
    exec (.wtq f) s = .next (answered s 0x41 f .BAD_ARGUMENT none noResult) := by
  change execWtq f s = _
  rw [execWtq, onFrame_of_takesFrames ht hw, if_pos hk, answerStatus_closeFrame]

theorem exec_wtq_reports {k : Fin 4} (ht : takesFrames s) (hw : wholeFrame f 1) (hk : argument f 0 1 = k.val) :
    exec (.wtq f) s = .next (answered s 0x41 f .OK none (resultOf (watchBytes s.wu.watches[k]))) := by
  have hindex : ¬ 3 < argument f 0 1 := by omega
  have hread : Fin.ofNat 4 (argument f 0 1) = k := by rw [hk, Fin.ofNat_val_eq_self]
  change execWtq f s = _
  rw [execWtq, onFrame_of_takesFrames ht hw, if_neg hindex]
  simp only [hread, closeFrame_wu, answerOk_closeFrame]

end

/-! ## The members of a rule (08 R134) -/

section
variable {r : Rule} {n now : Nat}

theorem memberField_eq_getD (r : Rule) (n : Nat) (g : Member → Nat) :
    memberField r n g = ((r.members[n]?).map g).getD 0 := by
  rw [memberField]
  cases r.members[n]? <;> rfl

theorem memberField_of_getElem? {m : Member} (h : r.members[n]? = some m) (g : Member → Nat) :
    memberField r n g = g m := by
  rw [memberField, h]

/-- A field of the members is 0 or what some member has. -/
theorem memberField_lt {b : Nat} {g : Member → Nat} (hb : 0 < b) (h : ∀ m ∈ r.members, g m < b) (n : Nat) :
    memberField r n g < b := by
  rw [memberField]
  split
  · next m hm => exact h m (List.mem_of_getElem? hm)
  · exact hb

theorem memberField_watch_lt (r : Rule) (n : Nat) : memberField r n (·.watch.val) < 4 :=
  memberField_lt (by decide) (fun m _ => m.watch.isLt) n

theorem memberField_marked_lt (r : Rule) (n : Nat) : memberField r n (bit ·.mark.isSome) < 2 :=
  memberField_lt (by decide) (fun m _ => bit_lt m.mark.isSome) n

/-- The present flag of a place says whether the rule has a member there with its mark present. -/
theorem memberField_marked_eq_one_iff : memberField r n (bit ·.mark.isSome) = 1 ↔
    ∃ w x, r.members[n]? = some ⟨w, some x⟩ := by
  rw [memberField_eq_getD]
  rcases r.members[n]? with _ | ⟨w, _ | x⟩ <;> simp [bit]

/-- Every mark present is still to expire, and within the longest window (08 R134). -/
def marksAhead (now : Nat) (r : Rule) : Prop :=
  ∀ m ∈ r.members, ∀ x, m.mark = some x → now < x ∧ x ≤ now + 65535000

/-- Ahead of its expiry, the time to a mark's expiry is at least 1 ms rounded up. -/
theorem msToExpiry_of_lt {x : Nat} (h : now < x) : msToExpiry now (some x) = (x - now + 999) / 1000 :=
  max_eq_right (by omega)

theorem memberField_time_lt (h : marksAhead now r) (n : Nat) : memberField r n (msToExpiry now ·.mark) < 256 ^ 2 := by
  refine memberField_lt (by decide) (fun m hm => ?_) n
  cases hx : m.mark with
  | none => exact Nat.zero_lt_succ _
  | some x =>
    obtain ⟨hlo, hhi⟩ := h m hm x hx
    rw [msToExpiry_of_lt hlo]
    omega

theorem memberField_time_present {w : Fin 4} {x : Nat} (h : marksAhead now r) (hm : r.members[n]? = some ⟨w, some x⟩) :
    memberField r n (msToExpiry now ·.mark) = (x - now + 999) / 1000 := by
  obtain ⟨hlo, -⟩ := h _ (List.mem_of_getElem? hm) x rfl
  rw [memberField_of_getElem? hm, msToExpiry_of_lt hlo]

theorem memberField_time_absent (h : ∀ w x, r.members[n]? ≠ some ⟨w, some x⟩) :
    memberField r n (msToExpiry now ·.mark) = 0 := by
  rw [memberField_eq_getD]
  rcases hm : r.members[n]? with _ | ⟨w, _ | x⟩
  · rfl
  · rfl
  · exact absurd hm (h w x)

end

/-! ## A rule -/

section
variable {s t : State} {f : Frame} {r : Rule} {now : Nat}

/-- The fields of RLQ's report, a place without a member at 0; the last five bytes are reserved. -/
def ruleFields (now : Nat) (r : Rule) : List (Nat × Nat) :=
  [(1, bit r.enabled + 2 * bit r.once + 4 * r.members.length + 16 * r.action.code),
    (1, memberField r 0 (·.watch.val) + 4 * memberField r 1 (·.watch.val) + 16 * memberField r 2 (·.watch.val)),
    (2, r.window),
    (1, memberField r 0 (bit ·.mark.isSome) + 2 * memberField r 1 (bit ·.mark.isSome) +
      4 * memberField r 2 (bit ·.mark.isSome)),
    (2, memberField r 0 (msToExpiry now ·.mark)), (2, memberField r 1 (msToExpiry now ·.mark)),
    (2, memberField r 2 (msToExpiry now ·.mark)), (5, 0)]

theorem resultOf_ruleBytes (now : Nat) (r : Rule) :
    resultOf (ruleBytes now r) = resultOf (packed (ruleFields now r)) := by
  rw [← resultOf_append_zeros _ 5]
  rfl

/-- A field of a rule's report. -/
theorem field_ruleBytes {n v : Nat} (i : Nat) (h : t.mp.reply.result = resultOf (ruleBytes now r))
    (hi : (ruleFields now r)[i]? = some (n, v)) (hv : v < 256 ^ n) : field t (offsetOf (ruleFields now r) i) n = v := by
  have hwidth : (packed (ruleFields now r)).length = 16 := length_packed _
  exact field_packed i (h.trans (resultOf_ruleBytes now r)) hi hwidth.le hv

theorem EpochOp.code_lt (op : EpochOp) : op.code < 8 := by cases op <;> decide

/-- Byte 0: enabled at bit 0, once at bit 1, the member count at bits 2 and 3, the action at bits 4 to 6. -/
theorem bits_ruleBytes_head (h : t.mp.reply.result = resultOf (ruleBytes now r)) (hcount : r.members.length ≤ 3) :
    bits t 0 0 1 = bit r.enabled ∧ bits t 0 1 1 = bit r.once ∧ bits t 0 2 2 = r.members.length ∧
      bits t 0 4 3 = r.action.code ∧ bits t 0 7 1 = 0 := by
  have henabled := bit_lt r.enabled
  have honce := bit_lt r.once
  have haction := EpochOp.code_lt r.action
  have hbyte : field t 0 1 = bit r.enabled + 2 * bit r.once + 4 * r.members.length + 16 * r.action.code :=
    field_ruleBytes 0 h rfl (by omega)
  simp only [bits, hbyte]
  omega

/-- Byte 1: the watch of each member in order, two bits each. -/
theorem bits_ruleBytes_members (h : t.mp.reply.result = resultOf (ruleBytes now r)) :
    (∀ n : Fin 3, bits t 1 (2 * n.val) 2 = memberField r n (·.watch.val)) ∧ bits t 1 6 2 = 0 := by
  have h0 := memberField_watch_lt r 0
  have h1 := memberField_watch_lt r 1
  have h2 := memberField_watch_lt r 2
  have hbyte : field t 1 1 = memberField r 0 (·.watch.val) + 4 * memberField r 1 (·.watch.val) +
      16 * memberField r 2 (·.watch.val) := field_ruleBytes 1 h rfl (by omega)
  refine ⟨fun n => ?_, by rw [bits, hbyte]; omega⟩
  rw [bits, hbyte]
  match n with
  | 0 | 1 | 2 => simp only [Fin.val_zero, Fin.val_one, Fin.val_two]; omega

/-- Byte 4: the present flag of each member's mark in order, one bit each. -/
theorem bits_ruleBytes_marks (h : t.mp.reply.result = resultOf (ruleBytes now r)) :
    (∀ n : Fin 3, bits t 4 n.val 1 = memberField r n (bit ·.mark.isSome)) ∧ bits t 4 3 5 = 0 := by
  have h0 := memberField_marked_lt r 0
  have h1 := memberField_marked_lt r 1
  have h2 := memberField_marked_lt r 2
  have hbyte : field t 4 1 = memberField r 0 (bit ·.mark.isSome) + 2 * memberField r 1 (bit ·.mark.isSome) +
      4 * memberField r 2 (bit ·.mark.isSome) := field_ruleBytes 3 h rfl (by omega)
  refine ⟨fun n => ?_, by rw [bits, hbyte]; omega⟩
  rw [bits, hbyte]
  match n with
  | 0 | 1 | 2 => simp only [Fin.val_zero, Fin.val_one, Fin.val_two]; omega

theorem field_ruleBytes_window (h : t.mp.reply.result = resultOf (ruleBytes now r)) (hwindow : r.window ≤ 65535) :
    field t 2 2 = r.window :=
  field_ruleBytes 2 h rfl (by omega)

theorem field_ruleBytes_rest (h : t.mp.reply.result = resultOf (ruleBytes now r)) : field t 11 5 = 0 :=
  field_ruleBytes 7 h rfl (by decide)

/-- Bytes 5 to 10: the time to the expiry of each member's mark in order, two bytes each. -/
theorem field_ruleBytes_time (h : t.mp.reply.result = resultOf (ruleBytes now r)) (hmarks : marksAhead now r) :
    (n : Fin 3) → field t (5 + 2 * n.val) 2 = memberField r n (msToExpiry now ·.mark)
  | 0 => field_ruleBytes 4 h rfl (memberField_time_lt hmarks 0)
  | 1 => field_ruleBytes 5 h rfl (memberField_time_lt hmarks 1)
  | 2 => field_ruleBytes 6 h rfl (memberField_time_lt hmarks 2)

theorem exec_rlq_bad (ht : takesFrames s) (hw : wholeFrame f 1) (hk : 1 < argument f 0 1) :
    exec (.rlq f) s = .next (answered s 0x43 f .BAD_ARGUMENT none noResult) := by
  change execRlq f s = _
  rw [execRlq, onFrame_of_takesFrames ht hw, if_pos hk, answerStatus_closeFrame]

theorem exec_rlq_reports {k : Fin 2} (ht : takesFrames s) (hw : wholeFrame f 1) (hk : argument f 0 1 = k.val) :
    exec (.rlq f) s = .next (answered s 0x43 f .OK none (resultOf (ruleBytes s.now s.wu.rules[k]))) := by
  have hindex : ¬ 1 < argument f 0 1 := by omega
  have hread : Fin.ofNat 2 (argument f 0 1) = k := by rw [hk, Fin.ofNat_val_eq_self]
  change execRlq f s = _
  rw [execRlq, onFrame_of_takesFrames ht hw, if_neg hindex]
  simp only [hread, closeFrame_wu, closeFrame_now, answerOk_closeFrame]

end

/-! ## The obligation -/

/-- Settles O21: an index in range is answered with the fields of that watch or rule; a mark ahead of its expiry has at
least 1 ms left, so that the report's rounding is the plain one. -/
theorem watchesAndRulesAreReported : Obligations.WatchesAndRulesAreReported := by
  refine fun f s ht hw => ⟨exec_wtq_bad ht hw, fun k hk => ?wtq, exec_rlq_bad ht hw,
    fun k hk hcount hwindow hmarks => ?rlq⟩
  case wtq =>
    obtain ⟨t, hexec, hok, hres⟩ := answersOk_of_exec (exec_wtq_reports ht hw hk)
    obtain ⟨henabled, hgap, hword⟩ := bits_watchBytes hres
    exact ⟨t, hexec, hok, henabled, hgap, hword, field_watchBytes hres⟩
  case rlq =>
    obtain ⟨t, hexec, hok, hres⟩ := answersOk_of_exec (exec_rlq_reports ht hw hk)
    obtain ⟨henabled, honce, hmembers, haction, hspare⟩ := bits_ruleBytes_head hres hcount
    obtain ⟨hwatch, hwatchSpare⟩ := bits_ruleBytes_members hres
    obtain ⟨hmark, hmarkSpare⟩ := bits_ruleBytes_marks hres
    have htime := field_ruleBytes_time hres hmarks
    refine ⟨t, hexec, hok, henabled, honce, hmembers, haction, hspare, field_ruleBytes_window hres hwindow,
      hwatchSpare, hmarkSpare, field_ruleBytes_rest hres, fun n => ⟨?_, ?_, fun w x hm => ?_, fun hm => ?_⟩⟩
    · rw [hwatch n, memberField_eq_getD]
    · rw [hmark n, memberField_marked_eq_one_iff]
    · rw [htime n, memberField_time_present hmarks hm]
    · rw [htime n, memberField_time_absent hm]

end Sys2Proof.Machine
end

section
/-! PROOFS. The event queue: an event offered (09 R146, R147) and the event popped by EVP (09 R148), with ALERT_N after
either (09 R150). -/

namespace Sys2Proof.Machine

open Sys2Proof.Safety

/-! ## ALERT_N (09 R150) -/

/-- ALERT_N is right wherever it has just been evaluated. -/
theorem alertRight_of_evaluated {s : State} (h : s.eq.alert = alertCondition s.eq.queue s.eq.lost s.cfg.alertMask) :
    alertRight s := by
  rw [alertRight, h, alertCondition_iff]

/-! ## An event offered (09 R146, R147) -/

section
variable (k : EventKind) (sq : Option (BitVec 32)) (l : Option Line) (d : BitVec 16) (s : State)

theorem alertRight_postEvent : alertRight (postEvent k sq l d s) :=
  alertRight_of_evaluated (offerEvent_alert s.cfg.alertMask k sq l d s.eq)

theorem postEvent_accepted (h : s.eq.queue.length < 32) :
    (postEvent k sq l d s).eq.queue = s.eq.queue ++ [⟨s.eq.counter, k, sq, l, d⟩] ∧
      (postEvent k sq l d s).eq.counter = s.eq.counter + 1 ∧ (postEvent k sq l d s).eq.lost = s.eq.lost := by
  rcases offerEvent_cases s.cfg.alertMask k sq l d s.eq with ⟨-, hq⟩ | ⟨hfull, -⟩
  · rw [postEvent_eq, hq]
    exact ⟨rfl, rfl, rfl⟩
  · exact absurd hfull h.not_ge

theorem postEvent_dropped (h : 32 ≤ s.eq.queue.length) :
    (postEvent k sq l d s).eq.queue = s.eq.queue ∧ (postEvent k sq l d s).eq.counter = s.eq.counter ∧
      (postEvent k sq l d s).eq.lost = min (s.eq.lost + 1) 255 := by
  rcases offerEvent_cases s.cfg.alertMask k sq l d s.eq with ⟨hroom, -⟩ | ⟨-, hq⟩
  · exact absurd hroom h.not_gt
  · rw [postEvent_eq, hq]
    exact ⟨rfl, rfl, rfl⟩

end

/-- Counting up to a greatest value and staying there. -/
theorem min_succ_eq_ite {n m : Nat} (h : n ≤ m) : min (n + 1) m = if n = m then m else n + 1 := by
  split <;> omega

/-! ## The report of an event (10 section 10.7) -/

section
variable {t : State} {e : Event} {lost remaining : Nat}

/-- The fields of EVP's report, byte by byte where a byte holds more than one; without an event its fields read 0 as
one. -/
def eventFields (e : Option Event) (lost remaining : Nat) : List (Nat × Nat) :=
  match e with
  | some v =>
    [(1, v.kind.code + 32 + 64 * bit v.epochSequence.isSome + 128 * bit v.line.isSome), (2, v.sequence.toNat),
      (4, optionNat v.epochSequence), (5, optionNat v.line), (2, v.detail.toNat), (1, lost), (1, remaining)]
  | none => [(14, 0), (1, lost), (1, remaining)]

theorem eventBytes_eq_packed (e : Option Event) (lost remaining : Nat) :
    eventBytes e lost remaining = packed (eventFields e lost remaining) := by
  cases e <;> rfl

theorem length_packed_eventFields (e : Option Event) (lost remaining : Nat) :
    (packed (eventFields e lost remaining)).length = 16 := by
  rw [length_packed]
  cases e <;> rfl

/-- A field of an event's report. -/
theorem field_eventBytes {e : Option Event} {n v : Nat} (i : Nat)
    (h : t.mp.reply.result = resultOf (eventBytes e lost remaining))
    (hi : (eventFields e lost remaining)[i]? = some (n, v)) (hv : v < 256 ^ n) :
    field t (offsetOf (eventFields e lost remaining) i) n = v := by
  rw [eventBytes_eq_packed] at h
  exact field_packed i h hi (length_packed_eventFields e lost remaining).le hv

/-- Bytes 14 and 15, with an event or without: the lost count and the number of events left. -/
theorem field_eventBytes_counts {e : Option Event} (h : t.mp.reply.result = resultOf (eventBytes e lost remaining))
    (hlost : lost < 256) (hremaining : remaining < 256) : field t 14 1 = lost ∧ field t 15 1 = remaining := by
  cases e with
  | none => exact ⟨field_eventBytes 1 h rfl hlost, field_eventBytes 2 h rfl hremaining⟩
  | some e => exact ⟨field_eventBytes 5 h rfl hlost, field_eventBytes 6 h rfl hremaining⟩

theorem field_eventBytes_none (h : t.mp.reply.result = resultOf (eventBytes none lost remaining)) : field t 0 14 = 0 :=
  field_eventBytes 0 h rfl (by decide)

theorem EventKind.code_lt (k : EventKind) : k.code < 32 := by cases k <;> decide

/-- Byte 0: the kind at bits 0 to 4, present at bit 5, the presence of the epoch sequence and of the line above it. -/
theorem bits_eventBytes_head (h : t.mp.reply.result = resultOf (eventBytes (some e) lost remaining)) :
    bits t 0 0 5 = e.kind.code ∧ bits t 0 5 1 = 1 ∧ bits t 0 6 1 = bit e.epochSequence.isSome ∧
      bits t 0 7 1 = bit e.line.isSome := by
  have hkind := EventKind.code_lt e.kind
  have hsequence := bit_lt e.epochSequence.isSome
  have hline := bit_lt e.line.isSome
  have hbyte : field t 0 1 = e.kind.code + 32 + 64 * bit e.epochSequence.isSome + 128 * bit e.line.isSome :=
    field_eventBytes 0 h rfl (by omega)
  simp only [bits, hbyte]
  omega

theorem optionNat_eq_getD {n : Nat} (o : Option (BitVec n)) : optionNat o = (o.getD 0).toNat := by
  cases o with
  | none => exact (BitVec.toNat_zero).symm
  | some v => rfl

theorem optionNat_lt {n : Nat} (o : Option (BitVec n)) : optionNat o < 2 ^ n :=
  optionNat_eq_getD o ▸ (o.getD 0).isLt

/-- The fields of whole bytes. -/
theorem field_eventBytes_words (h : t.mp.reply.result = resultOf (eventBytes (some e) lost remaining)) :
    field t 1 2 = e.sequence.toNat ∧ field t 3 4 = optionNat e.epochSequence ∧ field t 7 5 = optionNat e.line ∧
      field t 12 2 = e.detail.toNat :=
  ⟨field_eventBytes 1 h rfl (e.sequence.isLt.trans_eq (by decide)),
    field_eventBytes 2 h rfl ((optionNat_lt e.epochSequence).trans_eq (by decide)),
    field_eventBytes 3 h rfl ((optionNat_lt e.line).trans (by decide)),
    field_eventBytes 4 h rfl (e.detail.isLt.trans_eq (by decide))⟩

end

/-! ## EVP (09 R148) -/

section
variable {s : State} {f : Frame}

theorem alertRight_popEvent (s : State) : alertRight (popEvent s) := alertRight_of_evaluated rfl

theorem popEvent_closeFrame (s : State) : popEvent (closeFrame s) = closeFrame (popEvent s) := rfl

theorem exec_evp_pops (ht : takesFrames s) (hw : wholeFrame f 0) :
    exec (.evp f) s = .next (answered (popEvent s) 0x38 f .OK none
      (resultOf (eventBytes s.eq.queue.head? s.eq.lost s.eq.queue.tail.length))) := by
  change execEvp f s = _
  rw [execEvp, onFrame_of_takesFrames ht hw, closeFrame_eq, popEvent_closeFrame, answerOk_closeFrame]

/-- The state EVP leaves: the queue popped, ALERT_N right, the report in the reply record, and nothing else changed. -/
theorem exec_evp_answers (ht : takesFrames s) (hw : wholeFrame f 0) : ∃ t, exec (.evp f) s = .next t ∧
    t.mp.frame = none ∧ t.mp.reply = ⟨f.seq, 0x38, .OK, none, t.mp.reply.result⟩ ∧
    t = { s with eq := ⟨s.eq.queue.tail, 0, s.eq.counter, t.eq.alert⟩, mp := t.mp } ∧ alertRight t ∧
    t.mp.reply.result = resultOf (eventBytes s.eq.queue.head? s.eq.lost s.eq.queue.tail.length) :=
  ⟨_, exec_evp_pops ht hw, rfl, rfl, rfl, alertRight_popEvent s, rfl⟩

end

/-! ## The obligations -/

/-- Settles O18: EVP answers with the report of the queue's front, read field by field, and pops it. -/
theorem oldestEventIsPopped : Obligations.OldestEventIsPopped := by
  intro f s ht hw ⟨hqueue, hlost⟩
  rw [Config.queueSize] at hqueue
  have hleft : s.eq.queue.tail.length = s.eq.queue.length - 1 := List.length_tail
  obtain ⟨t, hexec, hframe, hreply, hkept, halert, hres⟩ := exec_evp_answers ht hw
  obtain ⟨hlostField, hleftField⟩ := field_eventBytes_counts hres (Nat.lt_succ_of_le hlost) (by omega)
  refine ⟨t, hexec, hframe, hreply, hkept, halert, hlostField, hleftField.trans hleft,
    fun hempty => ?empty, fun e q hfront => ?front⟩
  case empty =>
    rw [hempty] at hres
    exact field_eventBytes_none hres
  case front =>
    rw [hfront] at hres
    obtain ⟨hkind, hpresent, hsequence, hline⟩ := bits_eventBytes_head hres
    rw [← optionNat_eq_getD, ← optionNat_eq_getD]
    exact ⟨hkind, hpresent, hsequence, hline, field_eventBytes_words hres⟩

/-- Settles O19: an offer ends in one of two ways, and either way ALERT_N is evaluated. -/
theorem eventsAreAcceptedOrDropped : Obligations.EventsAreAcceptedOrDropped := by
  refine fun k sq l d s => ⟨postEvent_accepted k sq l d s, fun hfull hlost => ?_, alertRight_postEvent k sq l d s, rfl⟩
  rw [← min_succ_eq_ite hlost]
  exact postEvent_dropped k sq l d s hfull

end Sys2Proof.Machine
end


section
/-! PROOFS. What a command can do, as a path of small changes (04 to 10). Each change keeps the device's laws, with no
unlawful state between two of them, so that a law of every step is a law of every small change. -/

namespace Sys2Proof.Machine

open Sys2Proof.Safety

/-! ## Events offered -/

/-- Event queues that offers alone lead to. -/
def Offers (mask : BitVec 17) : EventQueue → EventQueue → Prop :=
  Relation.ReflTransGen fun q q' => ∃ k sq l d, q' = offerEvent mask k sq l d q

/-- A state with nothing but events posted since another. -/
def PostedSince (s t : State) : Prop := ∃ q, Offers s.cfg.alertMask s.eq q ∧ t = { s with eq := q }

theorem PostedSince.refl (s : State) : PostedSince s s := ⟨s.eq, .refl, rfl⟩

theorem PostedSince.post {s u : State} (h : PostedSince s u) (k : EventKind) (sq : Option (BitVec 32))
    (l : Option Line) (d : BitVec 16) : PostedSince s (postEvent k sq l d u) := by
  obtain ⟨q, hq, rfl⟩ := h
  exact ⟨_, hq.tail ⟨k, sq, l, d, rfl⟩, rfl⟩

theorem PostedSince.trans {s t u : State} (h : PostedSince s t) (h' : PostedSince t u) : PostedSince s u := by
  obtain ⟨q, hq, rfl⟩ := h
  obtain ⟨q', hq', rfl⟩ := h'
  exact ⟨q', Relation.ReflTransGen.trans hq hq', rfl⟩

/-! ## The closing operations without their events -/

/-- The low-armed flag as a watermark comparison leaves it (03 R47). -/
def armWater (s : State) : State := { s with jr := { s.jr with lowArmed := decide (s.cfg.lowWater ≤ freeCount s.jr) } }

/-- A watermark comparison arms the flag and posts one event at most. -/
theorem testLowWater_posts (line : Option Line) (s : State) : PostedSince (armWater s) (testLowWater line s) := by
  by_cases h : s.jr.lowArmed ∧ freeCount s.jr < s.cfg.lowWater
  · refine ⟨_, .single ⟨.JOURNAL_LOW, innermostSequence s, line, detail (freeCount s.jr), rfl⟩, ?_⟩
    simp only [testLowWater, if_pos h]
    rfl
  · refine ⟨s.eq, .refl, ?_⟩
    simp only [testLowWater, if_neg h]
    rfl

/-- The innermost run released and its identifiers retired: from the tail at level 1, from the head above it
(03 R43, 05 R85, R87). -/
def releaseInnermost (eligible : BitVec 16) (s : State) : State :=
  match s.ec.stack with
  | [] => s
  | e :: rest =>
    popEpoch (retire eligible e.ids (armWater
      { s with jr := if rest = [] then releaseTail e s.jr else releaseHead e s.jr }))

/-- Every run released, innermost first (05 R88). -/
def releaseAll (s : State) : State :=
  s.ec.stack.foldl (fun t _ => releaseInnermost (eligibleAfter s) t) s

theorem releaseInnermost_eq (eligible : BitVec 16) (s : State) (q : EventQueue) :
    releaseInnermost eligible { s with eq := q } = { releaseInnermost eligible s with eq := q } := by
  unfold releaseInnermost
  cases s.ec.stack <;> rfl

theorem PostedSince.release {s t : State} (eligible : BitVec 16) (h : PostedSince s t) :
    PostedSince (releaseInnermost eligible s) (releaseInnermost eligible t) := by
  obtain ⟨q, hq, rfl⟩ := h
  refine ⟨q, ?_, releaseInnermost_eq eligible s q⟩
  unfold releaseInnermost
  cases s.ec.stack <;> exact hq

/-- A run released after its watermark comparison has posted. -/
theorem releaseInnermost_posts {s : State} {e : Epoch} {rest : List Epoch} (h : s.ec.stack = e :: rest)
    (eligible : BitVec 16) : PostedSince (releaseInnermost eligible s)
      (popEpoch (retire eligible e.ids (testLowWater none
        { s with jr := if rest = [] then releaseTail e s.jr else releaseHead e s.jr }))) := by
  obtain ⟨q, hq, hw⟩ := testLowWater_posts none
    { s with jr := if rest = [] then releaseTail e s.jr else releaseHead e s.jr }
  refine ⟨q, ?_, ?_⟩
  · simp only [releaseInnermost, h]
    exact hq
  · simp only [hw, releaseInnermost, h]
    rfl

theorem abandonInnermost_posts (eligible : BitVec 16) (s : State) :
    PostedSince (releaseInnermost eligible s) (abandonInnermost eligible s) := by
  cases h : s.ec.stack with
  | nil => simpa only [abandonInnermost, releaseInnermost, h] using PostedSince.refl s
  | cons e rest =>
    simpa only [abandonInnermost, h] using (releaseInnermost_posts h eligible).post .ABANDONED _ _ _

theorem commitOuter_posts {s : State} {e : Epoch} (h : s.ec.stack = [e]) :
    PostedSince (releaseInnermost (eligibleAfter s) s) (commitOuter e s) :=
  (releaseInnermost_posts h (eligibleAfter s)).post .COMMITTED (some e.sequence) none 0

theorem discardAll_posts (s : State) : PostedSince (releaseAll s) (discardAll s) := by
  have key (eligible : BitVec 16) (l : List Epoch) : ∀ u v : State, PostedSince u v →
      PostedSince (l.foldl (fun t _ => releaseInnermost eligible t) u)
        (l.foldl (fun t _ => abandonInnermost eligible t) v) := by
    induction l with
    | nil => exact fun u v h => h
    | cons x r ih => exact fun u v h => ih _ _ ((h.release eligible).trans (abandonInnermost_posts eligible v))
  exact key _ _ s s (.refl s)

/-! ## The small changes -/

/-- A record reserved at the head for a line of slot `k`, without its watermark event (03 R40, 04 R72). -/
def reserveSlot (line : Line) (k : Fin 8) (own : Ident) (sequence : BitVec 32) (s : State) : State :=
  { s with
    jr := appendRecord ⟨line, k, own, sequence, .RESERVED, none⟩ s.jr
    ec := mapInnermost (fun e => { e with runLength := e.runLength + 1 }) s.ec
    stamps := stampSet s.stamps (stampIndex s k line) own }

/-- The newest record removed, without its watermark event (03 R44). -/
def dropNewest (written : Bool) (s : State) : State :=
  { s with
    jr := { s.jr with
      head := s.jr.head - 1
      full := false
      records := tableErase s.jr.records (s.jr.head - 1).toNat }
    ec := { mapInnermost
        (fun e => { e with runLength := e.runLength - 1, restored := e.restored + bit written }) s.ec with
      removedSome := true } }

/-- The sequencer set. -/
def setSequencer (q : Sequencer) (s : State) : State := { s with ec := { s.ec with sequencer := q } }

/-- The innermost epoch's record changed. -/
def changeInnermost (g : Epoch → Epoch) (s : State) : State := { s with ec := mapInnermost g s.ec }

/-- The closing origin gone. -/
def clearOrigin (s : State) : State := { s with ec := { s.ec with closingOrigin := none } }

/-- An accepted MRK without its event (02 R31). -/
def pushEpoch (own : Ident) (rest : List Ident) (o : Origin) (s : State) : State :=
  { s with
    ec := { s.ec with stack := newEpoch s own o :: s.ec.stack, counter := s.ec.counter + 1 }
    ip := { s.ip with free := rest } }

/-- A commit merge without its event (05 R86). -/
def mergeInnermost (e p : Epoch) (s : State) : State :=
  retire (eligibleAfter s) (mergeRetires e p)
    { s with ec := mapInnermost (fun _ => mergedParent e p) (popEpoch s).ec }

/-- A change of the epochs, the journal, the stamps, the identifiers or the scrubber. -/
inductive EpochChange : State → State → Prop
  | push {s : State} {own : Ident} {rest : List Ident} (o : Origin) : refusalOf s .MRK = none →
      s.ip.free = own :: rest → EpochChange s (pushEpoch own rest o s)
  | beginClosing {s : State} {op : EpochOp} (o : Origin) : refusalOf s op = none → op ≠ .MRK →
      EpochChange s (beginClosing op o s)
  | reserve {s : State} {line : Line} {k : Fin 8} {own : Ident} {sequence : BitVec 32} :
      captureNeed s line = .capture k own sequence → EpochChange s (armWater (reserveSlot line k own sequence s))
  | updateRecord {s : State} (slot : Slot) (g : Record → Record) : EpochChange s (updateRecord slot g s)
  | revertStamp {s : State} (line : Line) (old : Ident) : EpochChange s { s with stamps := revertStamp s line old }
  | dropVoid {s : State} {e : Epoch} {rest : List Epoch} : s.ec.stack = e :: rest → e.state = .RESTORING →
      e.runLength ≠ 0 → s.ec.sequencer = .IDLE → EpochChange s (armWater (dropNewest false s))
  | dropWritten {s : State} {slot : Slot} : s.ec.sequencer = .WRITING slot →
      EpochChange s (setSequencer .IDLE (armWater (dropNewest true s)))
  | release {s : State} : innermostState s = some .DRAINING →
      EpochChange s (releaseInnermost (eligibleAfter s) s)
  | releaseAll {s : State} : innermostState s = some .DRAINING → EpochChange s (releaseAll s)
  | merge {s : State} {e p : Epoch} {rest : List Epoch} : s.ec.stack = e :: p :: rest → e.state = .DRAINING →
      EpochChange s (mergeInnermost e p s)
  | reopen {s : State} : innermostState s = some .DRAINING →
      EpochChange s (clearOrigin (changeInnermost (fun x => { x with state := .OPEN, pending := none }) s))
  | startRestore {s : State} : innermostState s = some .DRAINING →
      EpochChange s (clearOrigin (changeInnermost (fun x => { x with state := .RESTORING, pending := none }) s))
  | endRollback {s : State} {e : Epoch} {rest : List Epoch} : s.ec.stack = e :: rest → e.state = .RESTORING →
      e.runLength = 0 → s.ec.sequencer = .IDLE →
      EpochChange s (setSequencer .IDLE (retire (eligibleAfter s) e.ids (popEpoch s)))
  | place {s : State} {e : Epoch} {rest : List Epoch} (slot : Slot) : s.ec.stack = e :: rest → e.state = .RESTORING →
      e.runLength ≠ 0 → EpochChange s (setSequencer (.PLACED slot) s)
  | write {s : State} (slot : Slot) : s.ec.sequencer ≠ .IDLE → EpochChange s (setSequencer (.WRITING slot) s)
  | halt {s : State} : innermostState s = some .RESTORING ∨ s.ec.sequencer ≠ .IDLE →
      EpochChange s (setSequencer .IDLE (changeInnermost (fun e => { e with state := .HALTED }) s))
  | breakAll {s : State} : EpochChange s (breakAll s)

/-- The steps of a chain and of the tag-wait list once a restore step is placed ahead of a line's steps (04 R64). -/
def placeStep (slot : Slot) (line : Line) (s : State) : State :=
  { s with
    lht := putChain s.lht line (placeAhead s slot (chainOf s line))
    dp := { s.dp with tagWait := overtaken s (chainOf s line) } }

/-- The tag-wait list set. -/
def setTagWait (l : List Step) (s : State) : State := { s with dp := { s.dp with tagWait := l } }

/-- The contexts and holds gone and the accesses orphaned at the loss of the upstream link (07 R126). -/
def orphanAll (s : State) : State :=
  { s with
    upLink := .DOWN
    contexts := []
    holds := []
    lht := s.lht.filterMap (orphanChain s)
    dp := { s.dp with
      tracker := s.dp.tracker.map fun p => (p.1, orphanEntry s p.2)
      tagWait := s.dp.tagWait.filter Step.isRestore } }

/-- A change of the contexts, the chains, the hold list, the links or the downstream port; the downstream link does not
go DOWN. -/
inductive WorkChange : State → State → Prop
  | issue {s : State} {g : DownTag} (p : Purpose) (o : Owner) (l : Line) (m : MemRequest) : s.dp.link ≠ .DOWN →
      tableGet s.dp.quarantine g.val = none → WorkChange s (issue g p o l m s)
  | removeEntry {s : State} (g : DownTag) : WorkChange s (removeEntry g s)
  | timeOut {s : State} {g : DownTag} {e : TrackerEntry} (l : Line) : tableGet s.dp.tracker g.val = some e →
      WorkChange s (quarantineTag g l (removeEntry g s))
  | endQuarantine {s : State} (g : DownTag) : WorkChange s (endQuarantine g s)
  | clearQuarantine {s : State} : WorkChange s { s with dp := { s.dp with quarantine := [] } }
  | createContext {s : State} {t : HostTag} (r : Request) (l : Line) : s.upLink ≠ .DOWN → contextOf s t = none →
      WorkChange s (createContext t r l s)
  | updateContext {s : State} (t : HostTag) (g : Context → Context) : (∀ x, (g x).line = x.line) →
      WorkChange s (updateContext t g s)
  | discardContext {s : State} {t : HostTag} {c : Context} : contextOf s t = some c →
      WorkChange s (discardContext t c s)
  | joinHolds {s : State} {t : HostTag} {c : Context} (r : HoldReason) : contextOf s t = some c →
      WorkChange s (joinHolds t c.line r s)
  | leaveHolds {s : State} (t : HostTag) : WorkChange s (leaveHolds t s)
  | joinChain {s : State} {t : HostTag} {c : Context} : contextOf s t = some c →
      WorkChange s (joinChain c.line (.host t) s)
  | leaveChain {s : State} (l : Line) (st : Step) : WorkChange s (leaveChain l st s)
  | placeStep {s : State} (slot : Slot) (l : Line) : WorkChange s (placeStep slot l s)
  | waitHost {s : State} {t : HostTag} {c : Context} : s.dp.link ≠ .DOWN → contextOf s t = some c →
      WorkChange s (waitForTag (.host t) s)
  | waitFirst {s : State} (slot : Slot) : s.dp.link ≠ .DOWN → WorkChange s (waitFirst (.restore slot) s)
  | stopWaiting {s : State} {l : List Step} : l ⊆ s.dp.tagWait → WorkChange s (setTagWait l s)
  | orphanAll {s : State} : WorkChange s (orphanAll s)
  | upstreamUp {s : State} : WorkChange s { s with upLink := .UP }
  | downstreamUp {s : State} : WorkChange s { s with dp := { s.dp with link := .UP } }

/-- A change of a slot of the region table (01 R3 to R6, R12). -/
inductive RegionChange : State → State → Prop
  | install {s : State} {k : Fin 8} {base length : Nat} (m : Mode) : regionArgumentsOk k.val base length = true →
      installRefusal s k base length = none →
      RegionChange s (setRegion k ⟨true, BitVec.ofNat 34 base, length, m, 0⟩ s)
  | clear {s : State} (k : Fin 8) : RegionChange s (setRegion k .clear s)
  | setMode {s : State} (k : Fin 8) (m : Mode) : RegionChange s (setRegion k { s.regions[k] with mode := m } s)
  | count {s : State} (k : Fin 8) (c : BitVec 32) : RegionChange s (setRegion k { s.regions[k] with count := c } s)

/-- A change of what no law speaks of: the clock, the hold in reset, the pins, the watch unit, the management port and
the replies sent. -/
def outside (now : Nat) (held : Bool) (pins : Pins) (wu : WatchUnit) (mp : ManagementPort) (tx : List HostReply)
    (s : State) : State := { s with now := now, held := held, pins := pins, wu := wu, mp := mp, upTx := tx }

/-- One small change of the device. -/
inductive Change : State → State → Prop
  | outside {s : State} (now : Nat) (held : Bool) (pins : Pins) (wu : WatchUnit) (mp : ManagementPort)
      (tx : List HostReply) : Change s (outside now held pins wu mp tx s)
  | events {s t : State} : PostedSince s t → Change s t
  | popEvent {s : State} : Change s (popEvent s)
  | config {s : State} {item value : Nat} {cfg : ConfigItems} : writeItem s.cfg item value = some cfg →
      Change s (applyItem item cfg s)
  | region {s t : State} : RegionChange s t → Change s t
  | work {s t : State} : WorkChange s t → Change s t
  | epoch {s t : State} : EpochChange s t → Change s t
  | reset {s : State} (hold : Bool) : Change s (resetDevice hold s)

/-- Small changes one after another. -/
abbrev Path : State → State → Prop := Relation.ReflTransGen Change

end Sys2Proof.Machine
end


section
/-! PROOFS. Every task of an agenda is a path of small changes, and so is every command but a scrubber visit and the
loss of the downstream link. -/

namespace Sys2Proof.Machine

open Sys2Proof.Safety

/-! ## Paths by operation -/

namespace Path

variable {s u : State}

theorem posted {v : State} (h : Path s u) (hv : PostedSince u v) : Path s v := h.tail (.events hv)

theorem post (h : Path s u) (k : EventKind) (sq : Option (BitVec 32)) (l : Option Line) (d : BitVec 16) :
    Path s (postEvent k sq l d u) := h.posted ((PostedSince.refl u).post k sq l d)

theorem epoch {v : State} (h : Path s u) (hv : EpochChange u v) : Path s v := h.tail (.epoch hv)

theorem work {v : State} (h : Path s u) (hv : WorkChange u v) : Path s v := h.tail (.work hv)

theorem sendReply (h : Path s u) (t : HostTag) (k : Kind) (st : HostStatus) (d : Option Data) :
    Path s (sendReply t k st d u) := h.tail (.outside u.now u.held u.pins u.wu u.mp _)

theorem frame (h : Path s u) (mp : ManagementPort) : Path s { u with mp := mp } :=
  h.tail (.outside u.now u.held u.pins u.wu mp u.upTx)

theorem watches (h : Path s u) (wu : WatchUnit) : Path s { u with wu := wu } :=
  h.tail (.outside u.now u.held u.pins wu u.mp u.upTx)

theorem pins (h : Path s u) (p : Pins) : Path s { u with pins := p } :=
  h.tail (.outside u.now u.held p u.wu u.mp u.upTx)

theorem updateContext (h : Path s u) (t : HostTag) (g : Context → Context) (hg : ∀ x, (g x).line = x.line) :
    Path s (updateContext t g u) := h.work (.updateContext t g hg)

theorem leaveHolds (h : Path s u) (t : HostTag) : Path s (leaveHolds t u) := h.work (.leaveHolds t)

theorem leaveChain (h : Path s u) (l : Line) (st : Step) : Path s (leaveChain l st u) := h.work (.leaveChain l st)

theorem setTagWait (h : Path s u) {l : List Step} (hl : l ⊆ u.dp.tagWait) : Path s (setTagWait l u) :=
  h.work (.stopWaiting hl)

theorem stopWaiting (h : Path s u) (st : Step) : Path s (stopWaiting st u) :=
  h.setTagWait (List.filter_subset_self _)

theorem updateRecord (h : Path s u) (slot : Slot) (g : Record → Record) : Path s (updateRecord slot g u) :=
  h.epoch (.updateRecord slot g)

theorem endContext (h : Path s u) {t : HostTag} {c : Context} (hc : contextOf u t = some c) (st : HostStatus)
    (d : Option Data) : Path s (endContext t c st d u) :=
  (h.sendReply t c.request.kind st d).work (.discardContext hc)

/-- A context whose record keeps its line is still there. -/
theorem contextOf_updateContext {t : HostTag} {c : Context} (g : Context → Context) (hc : contextOf u t = some c) :
    contextOf (Machine.updateContext t g u) t = some (g c) := by
  rw [contextOf, updateContext_contexts, tableGet_update_same]
  exact congrArg (Option.map g) hc

theorem holdRequest (h : Path s u) {t : HostTag} {c : Context} (hc : contextOf u t = some c) :
    Path s (holdRequest t c u) := by
  have h4 := (((h.updateContext t (fun x => { x with state := .HELD }) fun _ => rfl).leaveChain c.line
    (.host t)).stopWaiting (.host t)).leaveHolds t
  exact h4.work (.joinHolds (c := { c with state := .HELD }) .OPERATION (contextOf_updateContext _ hc))

theorem queueRequest (h : Path s u) {t : HostTag} {c : Context} (hc : contextOf u t = some c) :
    Path s (queueRequest t c.line u) :=
  (h.updateContext t (fun x => { x with state := .QUEUED }) fun _ => rfl).work
    (.joinChain (c := { c with state := .QUEUED }) (contextOf_updateContext _ hc))

/-- A step that waits for a tag, off the hold list (04 R67, R76). -/
theorem waitForTag (h : Path s u) {t : HostTag} {c : Context} (hc : contextOf u t = some c) (hl : u.dp.link ≠ .DOWN) :
    Path s (waitForTag (.host t) (Machine.leaveHolds t
      (Machine.updateContext t (fun x => { x with state := .QUEUED }) u))) :=
  ((h.updateContext t (fun x => { x with state := .QUEUED }) fun _ => rfl).leaveHolds t).work
    (.waitHost (c := { c with state := .QUEUED }) hl (contextOf_updateContext _ hc))

variable {tag : DownTag}

theorem forwardRead (h : Path s u) (hl : u.dp.link ≠ .DOWN) (ht : freeTag u = some tag) (t : HostTag) (l : Line) :
    Path s (forwardRead t l tag u) :=
  (h.work (.issue .FORWARD_READ (.context t) l _ hl (freeTag_some ht).2)).updateContext t _ fun _ => rfl

theorem forwardWrite (h : Path s u) (hl : u.dp.link ≠ .DOWN) (ht : freeTag u = some tag) (t : HostTag) (l : Line)
    (m : Mask) (d : Data) : Path s (forwardWrite t l m d tag u) :=
  ((h.work (.issue .FORWARD_WRITE (.context t) l (.write tag l m d) hl (freeTag_some ht).2)).updateContext t
    (fun x => { x with state := .FORWARDED, downTag := some tag }) fun _ => rfl).leaveHolds t

theorem reserve (h : Path s u) {l : Line} {k : Fin 8} {own : Ident} {q : BitVec 32} (hl : u.dp.link ≠ .DOWN)
    (ht : freeTag u = some tag) (hn : captureNeed u l = .capture k own q) (t : HostTag) :
    Path s (reserve t l k own q tag u) :=
  ((((h.epoch (.reserve hn)).posted (testLowWater_posts (some l) _)).work
    (.issue .CAPTURE_READ (.context t) l (.read tag l) hl (freeTag_some ht).2)).updateContext t
    (fun x => { x with
      state := .CAPTURING
      slot := some u.jr.head
      oldStamp := some (stampGet u.stamps (stampIndex u k l))
      downTag := some tag }) fun _ => rfl).leaveHolds t

theorem holdRecord (h : Path s u) (slot : Slot) (d : Data) : Path s (holdRecord slot d u) := by
  rw [Machine.holdRecord]
  cases tableGet u.jr.records slot.toNat with
  | none => exact h.updateRecord slot _
  | some r => exact updateRecord (h.tail (.region (.count r.region (countUp u.regions[r.region].count)))) slot _

theorem failCapture (h : Path s u) (slot : Slot) (l : Line) (old : Ident) : Path s (failCapture slot l old u) :=
  ((h.updateRecord slot _).epoch (.revertStamp l old)).post _ _ _ _

theorem fenceAll (tags : List HostTag) : ∀ {u : State}, Path s u → Path s (fenceAll tags u) := by
  induction tags with
  | nil => exact id
  | cons t ts ih =>
    intro u h
    rw [Machine.fenceAll, List.foldl_cons]
    cases hc : contextOf u t with
    | none => exact ih h
    | some c => exact ih (h.endContext hc .FENCED none)

theorem enterHalted (h : Path s u) : Path s (enterHalted u) := fenceAll _ (fenceAll _ h)

theorem failRestore (h : Path s u) (hr : innermostState u = some .RESTORING ∨ u.ec.sequencer ≠ .IDLE)
    (cause : HaltCause) (slot : Slot) : Path s (failRestore cause slot u) := by
  have h3 := ((h.updateRecord slot fun r => { r with state := .HELD }).leaveChain (recordLine u slot)
    (.restore slot)).stopWaiting (.restore slot)
  exact (h3.epoch (.halt hr)).enterHalted.post _ _ _ _

theorem placeRestore (h : Path s u) {e : Epoch} {rest : List Epoch} (hs : u.ec.stack = e :: rest)
    (he : e.state = .RESTORING) (hn : e.runLength ≠ 0) (slot : Slot) (l : Line) : Path s (placeRestore slot l u) :=
  (h.work (.placeStep slot l)).epoch (.place slot hs he hn)

theorem issueRestore (h : Path s u) (hl : u.dp.link ≠ .DOWN) (ht : freeTag u = some tag)
    (hq : u.ec.sequencer ≠ .IDLE) (slot : Slot) (l : Line) (d : Data) : Path s (issueRestore slot l d tag u) :=
  ((h.work (.issue .RESTORE_WRITE .sequencer l _ hl (freeTag_some ht).2)).updateRecord slot _).epoch (.write slot hq)

theorem openEpoch (h : Path s u) (hr : refusalOf u .MRK = none) (o : Origin) : Path s (openEpoch o u) := by
  rw [Machine.openEpoch]
  split
  · exact h
  · rename_i own rest hf
    exact (h.epoch (.push o hr hf)).post _ _ _ _

end Path

/-! ## The tasks -/

section
variable {s : State}

theorem captureFull_path {t : HostTag} {c : Context} {tag : DownTag} (m : Mask) (d : Data)
    (hc : contextOf s t = some c) (hl : s.dp.link ≠ .DOWN) (ht : freeTag s = some tag) :
    Path s (captureFull t c m d tag s).1 := by
  rw [captureFull]
  split
  · split
    · exact .refl
    · exact (Path.updateContext .refl t (fun x => { x with state := .SPACE_WAIT }) fun _ => rfl).work
        (.joinHolds (c := { c with state := .SPACE_WAIT }) .SPACE (Path.contextOf_updateContext _ hc))
  · exact (Path.endContext .refl hc .REFUSED none).post _ _ _ _
  · exact ((Path.epoch .refl .breakAll).post _ _ _ _).forwardWrite hl ht t c.line m d

theorem accessMemory_path {t : HostTag} {c : Context} {tag : DownTag} (hc : contextOf s t = some c)
    (hl : s.dp.link ≠ .DOWN) (ht : freeTag s = some tag) : Path s (accessMemory t c tag s).1 := by
  rw [accessMemory]
  split
  · exact Path.forwardRead .refl hl ht t c.line
  · rename_i m d _
    rw [decideCapture]
    split
    · exact Path.forwardWrite .refl hl ht t c.line m d
    · rename_i k own q hn
      exact Path.reserve .refl hl ht hn t
    · exact captureFull_path m d hc hl ht

theorem hostAtFront_path {t : HostTag} {c : Context} (w : Bool) (hc : contextOf s t = some c) :
    Path s (hostAtFront t c w s).1 := by
  rw [hostAtFront]
  split
  · exact Path.holdRequest .refl hc
  split
  · exact Path.endContext .refl hc .FENCED none
  split
  · exact Path.endContext .refl hc .OK none
  split
  · exact Path.endContext .refl hc .ERROR none
  rename_i hl
  split
  · rename_i tag ht
    split
    · exact accessMemory_path hc hl ht
    · exact Path.waitForTag .refl hc hl
  · exact Path.waitForTag .refl hc hl

theorem restoreAtFront_path (slot : Slot) (w : Bool) (hq : s.ec.sequencer ≠ .IDLE) :
    Path s (restoreAtFront slot w s).1 := by
  rw [restoreAtFront]
  split
  · exact Path.failRestore .refl (.inr hq) .LINK_DOWN slot
  rename_i hl
  split
  · rename_i tag d ht _
    split
    · exact Path.issueRestore .refl hl ht hq slot _ d
    · exact Path.work .refl (.waitFirst slot hl)
  · exact Path.work .refl (.waitFirst slot hl)
  · exact .refl

theorem sequencer_ne_idle_of_placed {slot : Slot} (h : s.ec.sequencer = .PLACED slot) : s.ec.sequencer ≠ .IDLE := by
  rw [h]; exact Sequencer.noConfusion

theorem sequencer_ne_idle_of_writing {slot : Slot} (h : s.ec.sequencer = .WRITING slot) : s.ec.sequencer ≠ .IDLE := by
  rw [h]; exact Sequencer.noConfusion

theorem atFront_path (line : Line) : Path s (atFront line s).1 := by
  rw [atFront]
  split
  · split
    · rename_i c hc
      split
      · exact hostAtFront_path false hc
      · exact .refl
    · exact .refl
  · split
    · rename_i h
      exact restoreAtFront_path _ false (sequencer_ne_idle_of_placed h.1)
    · exact .refl
  · exact .refl

theorem serveStep_path (st : Step) : Path s (serveStep st s).1 := by
  cases st with
  | host t =>
    rw [serveStep]
    split
    · rename_i c hc
      exact hostAtFront_path true hc
    · exact .refl
  | restore slot =>
    rw [serveStep]
    split
    · rename_i h
      exact restoreAtFront_path slot true (sequencer_ne_idle_of_placed h)
    · exact .refl
  | orphan g => exact .refl

theorem handOutTags_path : Path s (handOutTags s).1 := by
  rw [handOutTags]
  split
  · exact .refl
  · rename_i st rest hw
    split
    · exact .refl
    · have hsub : rest ⊆ s.dp.tagWait := hw ▸ List.subset_cons_self st rest
      exact Relation.ReflTransGen.trans (Path.setTagWait .refl hsub) (serveStep_path st)

theorem classify_path {t : HostTag} {c : Context} (hc : contextOf s t = some c) : Path s (classify t c s).1 := by
  have hq : Path s (chainRequest t c s).1 := Path.queueRequest .refl hc
  rw [classify]
  split
  · exact hq
  · split
    · exact (Path.endContext .refl hc .FENCED none).post _ _ _ _
    · exact hq
  · split
    · exact Path.holdRequest .refl hc
    · exact Path.holdRequest .refl hc
    · exact Path.endContext .refl hc .FENCED none
    · exact hq
    · exact hq

theorem takeIntake_path (t : HostTag) : Path s (takeIntake t s).1 := by
  rw [takeIntake]
  split
  · rename_i c hc
    exact classify_path hc
  · exact .refl

theorem releaseHeld_path (t : HostTag) : Path s (releaseHeld t s).1 := by
  rw [releaseHeld]
  split
  · exact Path.leaveHolds .refl t
  · exact .refl

theorem retrySpace_path (t : HostTag) (offer : Bool) : Path s (retrySpace t offer s).1 := by
  rw [retrySpace]
  split
  · rename_i c hc
    split
    · exact hostAtFront_path false hc
    · exact .refl
  · exact .refl

theorem fireRule_path (k : Fin 2) (line : Line) : Path s (fireRule k line s).1 :=
  (Path.watches .refl (disarmRule k s).wu).post _ _ _ _

theorem acceptRequest_path {op : EpochOp} (hr : refusalOf s op = none) (o : Origin) :
    Path s (acceptRequest op o s).1 := by
  rw [acceptRequest]
  split
  · rename_i h
    exact Path.openEpoch .refl (h ▸ hr) o
  · rename_i h
    exact Path.epoch .refl (.beginClosing o hr h)

theorem takeRequest_path (op : EpochOp) (o : Origin) : Path s (takeRequest op o s).1 := by
  rw [takeRequest]
  split
  · exact Path.post .refl _ _ _ _
  · rename_i hr
    exact acceptRequest_path hr o

theorem innermost_some_iff {e : Epoch} : innermost s = some e ↔ ∃ rest, s.ec.stack = e :: rest := by
  rw [innermost, List.head?_eq_some_iff]

theorem innermostState_of_stack {e : Epoch} {rest : List Epoch} (h : s.ec.stack = e :: rest) :
    innermostState s = some e.state := by
  rw [innermostState, innermost, h]; rfl

theorem performPending_path {e : Epoch} {rest : List Epoch} (hs : s.ec.stack = e :: rest) (he : e.state = .DRAINING) :
    Path s (performPending e s).1 := by
  have hd : innermostState s = some .DRAINING := by rw [innermostState_of_stack hs, he]
  rw [performPending]
  split
  · split
    · rename_i x p r h
      obtain ⟨rfl, rfl⟩ : e = x ∧ rest = p :: r := by rw [hs] at h; simpa using h
      exact (Path.epoch .refl (.merge hs he)).post _ _ _ _
    · rename_i h
      cases rest with
      | nil => exact (Path.epoch .refl (.release hd)).posted (commitOuter_posts hs)
      | cons p r => exact absurd hs (h e p r)
  · exact (Path.epoch .refl (.release hd)).posted (abandonInnermost_posts _ s)
  · exact (Path.epoch .refl (.releaseAll hd)).posted (discardAll_posts s)
  · split
    · exact (Path.epoch .refl (.reopen hd)).post _ _ _ _
    · exact Path.epoch .refl (.startRestore hd)
  · exact .refl

theorem judgeDrain_path : Path s (judgeDrain s).1 := by
  rw [judgeDrain]
  split
  · rename_i e he
    obtain ⟨rest, hs⟩ := innermost_some_iff.mp he
    split
    · rename_i h
      exact performPending_path hs h.1
    · exact .refl
  · exact .refl

theorem removeNewest_false_path {e : Epoch} {rest : List Epoch} (hs : s.ec.stack = e :: rest)
    (he : e.state = .RESTORING) (hn : e.runLength ≠ 0) (hq : s.ec.sequencer = .IDLE) :
    Path s (removeNewest false s) :=
  (Path.epoch .refl (.dropVoid hs he hn hq)).posted (testLowWater_posts none (dropNewest false s))

theorem takeUpNewest_path : Path s (takeUpNewest s).1 := by
  rw [takeUpNewest]
  split
  · exact .refl
  rename_i e he
  obtain ⟨rest, hs⟩ := innermost_some_iff.mp he
  split
  · exact .refl
  rename_i hg
  rw [not_or, not_not, not_not] at hg
  obtain ⟨hst, hq⟩ := hg
  split
  · rename_i hn
    exact (Path.epoch .refl (.endRollback hs hst hn hq)).post _ _ _ _
  rename_i hn
  dsimp only
  split
  · exact .refl
  · split
    · exact removeNewest_false_path hs hst hn hq
    · split
      · exact Path.failRestore .refl (.inl (by rw [innermostState_of_stack hs, hst])) .LINK_DOWN _
      · exact Path.placeRestore .refl hs hst hn _ _
    · exact .refl
    · exact .refl

/-- What one task does is a path of small changes. -/
theorem perform_path (task : Task) (s : State) : Path s (perform task s).1 := by
  cases task with
  | front line => exact atFront_path line
  | intake t => exact takeIntake_path t
  | shown line m d => exact Path.watches .refl _
  | fire k line => exact fireRule_path k line
  | request op o => exact takeRequest_path op o
  | drain => exact judgeDrain_path
  | takeUp => exact takeUpNewest_path
  | spaceRetries offer => exact .refl
  | retry t offer => exact retrySpace_path t offer
  | holdRelease => exact .refl
  | reenter t => exact releaseHeld_path t
  | handOut => exact handOutTags_path

end

/-! ## Events -/

theorem settle_path {ts : List Task} {s u t : State} (h : Path s u) (hr : settle ts u = .next t) : Path s t :=
  settle_keeps (P := Path s) (fun task v hv => Relation.ReflTransGen.trans hv (perform_path task v)) h hr

theorem settleEvent_path {ts : List Task} {s u t : State} (h : Path s u) (hr : settleEvent ts u = .next t) :
    Path s t :=
  settleEvent_keeps (P := Path s) (fun task v hv => Relation.ReflTransGen.trans hv (perform_path task v)) h hr

end Sys2Proof.Machine
end


section
/-! PROOFS. What one command can do: a path of small changes, a scrubber visit, or the loss of the downstream link. -/

namespace Sys2Proof.Machine

open Sys2Proof.Safety Host

/-! ## Frames -/

section
variable {s t u : State} {code : Byte} {f : Frame}

theorem next_path (h : Path s u) (hr : (Outcome.next u : Outcome State Fault Refusal) = .next t) : Path s t := by
  cases hr; exact h

theorem answerOk_path {bs : List Byte} (h : Path s u) (hr : answerOk code f bs u = .next t) : Path s t :=
  next_path (h.frame _) hr

theorem answerStatus_path {st : ReplyStatus} (h : Path s u) (hr : answerStatus code f st u = .next t) : Path s t :=
  next_path (h.frame _) hr

theorem answerRefused_path {r : Reason} (h : Path s u) (hr : answerRefused code f r u = .next t) : Path s t :=
  next_path (h.frame _) hr

theorem closeFrame_path : Path s (closeFrame s) := Path.frame .refl _

theorem onFrame_path {n : Nat} {act : State → Outcome State Fault Refusal}
    (hact : Path s (closeFrame s) → act (closeFrame s) = .next t → Path s t)
    (hr : onFrame code n f s act = .next t) : Path s t := by
  rcases onFrame_cases code n f s act with h | h | h
  · rw [h.2] at hr
    exact next_path closeFrame_path hr
  · rw [h.2] at hr
    exact answerStatus_path closeFrame_path hr
  · rw [h.2] at hr
    exact hact closeFrame_path hr

/-- A query changes the management port alone. -/
theorem query_path {n : Nat} {bytes : State → List Byte}
    (hr : onFrame code n f s (fun s => answerOk code f (bytes s) s) = .next t) : Path s t :=
  onFrame_path (n := n) (act := fun s => answerOk code f (bytes s) s) (fun h h' => answerOk_path h h') hr

/-- A query whose arguments are checked changes the management port alone. -/
theorem checkedQuery_path {n : Nat} {p : Prop} [Decidable p] {bytes : State → List Byte}
    (hr : onFrame code n f s
      (fun s => if p then answerStatus code f .BAD_ARGUMENT s else answerOk code f (bytes s) s) = .next t) :
    Path s t := by
  refine onFrame_path (fun h h' => ?_) hr
  split at h'
  · exact answerStatus_path h h'
  · exact answerOk_path h h'

theorem commandEpoch_path {op : EpochOp} (hr : commandEpoch code op f s = .next t) : Path s t := by
  refine onFrame_path (fun h h' => ?_) hr
  split at h'
  · exact answerRefused_path h h'
  · rename_i hn
    have hn' : refusalOf (writeRecord code f.seq .OK none (acceptedBytes op (closeFrame s)) (closeFrame s)) op = none := hn
    exact settle_path (Relation.ReflTransGen.trans (h.frame _) (acceptRequest_path hn' .MGMT)) h'

theorem execRpy_path (hr : execRpy f s = .next t) : Path s t := onFrame_path next_path hr

theorem execSts_path (hr : execSts f s = .next t) : Path s t := query_path hr

theorem execJst_path (hr : execJst f s = .next t) : Path s t := query_path hr

theorem execRgq_path (hr : execRgq f s = .next t) : Path s t := checkedQuery_path hr

theorem execEpq_path (hr : execEpq f s = .next t) : Path s t := checkedQuery_path hr

theorem execJrq_path (hr : execJrq f s = .next t) : Path s t := checkedQuery_path hr

theorem execJrd_path (hr : execJrd f s = .next t) : Path s t := checkedQuery_path hr

theorem execWtq_path (hr : execWtq f s = .next t) : Path s t := checkedQuery_path hr

theorem execRlq_path (hr : execRlq f s = .next t) : Path s t := checkedQuery_path hr

theorem execEvp_path (hr : execEvp f s = .next t) : Path s t :=
  onFrame_path (fun h h' => answerOk_path (h.tail .popEvent) h') hr

theorem execRgi_path (hr : execRgi f s = .next t) : Path s t := by
  refine onFrame_path (fun h h' => ?_) hr
  split at h'
  · rename_i m hok hm
    split at h'
    · exact answerRefused_path h h'
    · rename_i hi
      have hk : (Fin.ofNat 8 (argument f 0 1)).val = argument f 0 1 :=
        Nat.mod_eq_of_lt (Nat.lt_succ_of_le ((regionArgumentsOk_iff _ _ _).mp hok).1)
      exact answerOk_path (h.tail (.region (.install m (by rwa [hk]) hi))) h'
  · exact answerStatus_path h h'

theorem execRgr_path (hr : execRgr f s = .next t) : Path s t := by
  refine onFrame_path (fun h h' => ?_) hr
  split at h'
  · exact answerStatus_path h h'
  split at h'
  · exact answerRefused_path h h'
  · exact answerOk_path (h.tail (.region (.clear _))) h'

theorem execRgm_path (hr : execRgm f s = .next t) : Path s t := by
  refine onFrame_path (fun h h' => ?_) hr
  split at h'
  · exact answerStatus_path h h'
  dsimp only at h'
  split at h'
  · exact answerStatus_path h h'
  split at h'
  · exact answerRefused_path h h'
  · exact answerOk_path (h.tail (.region (.setMode _ _))) h'

theorem execRcf_path (hr : execRcf f s = .next t) : Path s t := by
  refine onFrame_path (fun h h' => ?_) hr
  split at h'
  · exact answerOk_path h h'
  · exact answerStatus_path h h'

theorem execWcf_path (hr : execWcf f s = .next t) : Path s t := by
  refine onFrame_path (fun h h' => ?_) hr
  split at h'
  · rename_i cfg hc
    exact answerOk_path (h.tail (.config hc)) h'
  · exact answerStatus_path h h'

theorem execWts_path (hr : execWts f s = .next t) : Path s t := by
  refine onFrame_path (fun h h' => ?_) hr
  split at h'
  · exact answerStatus_path h h'
  · exact answerOk_path (h.watches _) h'

theorem execRls_path (hr : execRls f s = .next t) : Path s t := by
  refine onFrame_path (fun h h' => ?_) hr
  split at h'
  · exact answerOk_path (h.watches _) h'
  · exact answerStatus_path h h'

/-! ## Resets and lines -/

theorem upIfShown_path (b : Bool) (h : Path s u) : Path s (upIfShown b u) := by
  rw [upIfShown]
  split
  · split
    · exact (h.work .downstreamUp).post _ _ _ _
    · exact h
  · split
    · exact (h.work .upstreamUp).post _ _ _ _
    · exact h

theorem endReset_path (b : Bool) (h : Path s u) : Path s (endReset b u) :=
  upIfShown_path _ (upIfShown_path _ (h.tail (.outside u.now false _ u.wu u.mp u.upTx)))

theorem resetDevice_path (b : Bool) (h : Path s u) : Path s (resetDevice b u) := h.tail (.reset b)

theorem setLineFilter_path (l : ControlLine) (g : LineFilter) : Path s (setLineFilter l g s) := Path.pins .refl _

theorem lineRequest_path {flag : Nat} {op : EpochOp} {o : Origin} (h : Path s u)
    (hr : lineRequest flag op o u = .next t) : Path s t := by
  rw [lineRequest] at hr
  split at hr
  · exact settle_path (Relation.ReflTransGen.trans h (takeRequest_path op o)) hr
  · exact next_path h hr

theorem execDrs_path {b : Bool} (hr : execDrs f b s = .next t) : Path s t :=
  onFrame_path (fun h h' => next_path (endReset_path b (resetDevice_path false h)) h') hr

theorem execUnknownCommand_path (hr : execUnknownCommand code f s = .next t) : Path s t := by
  refine onFrame_path (fun h h' => ?_) hr
  split at h'
  · exact next_path .refl h'
  · exact answerStatus_path h h'

/-! ## Requests, replies and timed events -/

theorem receiveRequest_path {tag : HostTag} {line : Line} {r : Request} (hr : receiveRequest tag line r s = .next t) :
    Path s t := by
  rw [receiveRequest] at hr
  split at hr
  · exact next_path .refl hr
  rename_i hg
  split at hr
  · exact next_path ((Path.sendReply .refl _ _ _ _).post _ _ _ _) hr
  · rename_i hc
    exact settle_path (Path.work .refl (.createContext r line (fun h => hg (.inr h)) (by simpa using hc))) hr

theorem failOwner_path (tag : DownTag) (e : TrackerEntry) (cause : HaltCause) (h : Path s u) :
    Path s (failOwner tag e cause u) := by
  rw [failOwner]
  split
  · split
    · exact h
    · rename_i c hc
      split
      · exact (h.failCapture _ _ _).endContext hc .ERROR none
      · exact h.endContext hc .ERROR none
  · split
    · rename_i slot hq
      exact h.failRestore (.inr (sequencer_ne_idle_of_writing hq)) cause slot
    · exact h
    · exact h
  · split
    · exact (h.failCapture _ _ _).leaveChain _ _
    · exact h.leaveChain _ _

theorem completeCapture_path {tag : HostTag} {c : Context} {line : Line} {d : Data} (hl : u.dp.link ≠ .DOWN)
    (h : Path s u) : Path s (completeCapture tag c line d u).1 := by
  have h1 := h.holdRecord (c.slot.getD 0) d
  rw [completeCapture]
  split
  · rename_i m wd tag' _ ht
    exact h1.forwardWrite (by rwa [holdRecord_dp]) ht tag line m wd
  · exact h1

theorem readDone_path {tag : DownTag} {e : TrackerEntry} {d : Data} (hl : u.dp.link ≠ .DOWN) (h : Path s u) :
    Path s (readDone tag e d u).1 := by
  rw [readDone]
  split
  · split
    · exact h
    · rename_i c hc
      split
      · exact completeCapture_path hl h
      · exact h.endContext hc .OK (some d)
  · exact h
  · split
    · exact (h.holdRecord _ d).leaveChain _ _
    · exact h.leaveChain _ _

/-- The record of a restore write answered OK leaves the ring and the sequencer takes its rest (05 R92). -/
theorem removeNewest_true_path {slot : Slot} (hq : u.ec.sequencer = .WRITING slot) (h : Path s u) :
    Path s (setSequencer .IDLE (removeNewest true u)) := by
  obtain ⟨q, ho, hw⟩ := testLowWater_posts none (dropNewest true u)
  have hp : PostedSince (setSequencer .IDLE (armWater (dropNewest true u)))
      (setSequencer .IDLE (removeNewest true u)) := ⟨q, ho, congrArg (setSequencer .IDLE) hw⟩
  exact (h.epoch (.dropWritten hq)).posted hp

theorem writeDone_path {tag : DownTag} {e : TrackerEntry} (h : Path s u) : Path s (writeDone tag e u).1 := by
  rw [writeDone]
  split
  · split
    · exact h
    · rename_i c hc
      exact h.endContext hc .OK none
  · split
    · rename_i slot hq
      exact (removeNewest_true_path hq h).leaveChain e.line (.restore slot)
    · exact h
    · exact h
  · exact h.leaveChain _ _

theorem unmatchedReply_path {tag : DownTag} (hr : unmatchedReply tag s = .next t) : Path s t := by
  rw [unmatchedReply] at hr
  split at hr
  · exact settleEvent_path ((Path.work .refl (.endQuarantine tag)).post _ _ _ _) hr
  · exact next_path (Path.post .refl _ _ _ _) hr

theorem errorReply_path {tag : DownTag} {e : TrackerEntry} (hr : errorReply tag e s = .next t) : Path s t :=
  settleEvent_path (failOwner_path tag e .ERROR ((Path.work .refl (.removeEntry tag)).post _ _ _ _)) hr

theorem execReadReply_path {tag : DownTag} {r : ReadResult} (hr : execReadReply tag r s = .next t) : Path s t := by
  rw [execReadReply] at hr
  split at hr
  · exact next_path .refl hr
  rename_i hg
  split at hr
  · exact unmatchedReply_path hr
  split at hr
  · exact next_path (Path.post .refl _ _ _ _) hr
  split at hr
  · exact errorReply_path hr
  · exact settleEvent_path (readDone_path (u := removeEntry tag s) (fun h => hg (.inr h))
      (Path.work .refl (.removeEntry tag))) hr

theorem execWriteReply_path {tag : DownTag} {r : WriteResult} (hr : execWriteReply tag r s = .next t) : Path s t := by
  rw [execWriteReply] at hr
  split at hr
  · exact next_path .refl hr
  split at hr
  · exact unmatchedReply_path hr
  split at hr
  · exact next_path (Path.post .refl _ _ _ _) hr
  split at hr
  · exact errorReply_path hr
  · exact settleEvent_path (writeDone_path (u := removeEntry tag s) (Path.work .refl (.removeEntry tag))) hr

theorem execDownstreamTimeout_path {tag : DownTag} (hr : execDownstreamTimeout tag s = .next t) : Path s t := by
  rw [execDownstreamTimeout] at hr
  split at hr
  · exact next_path .refl hr
  rename_i e he
  split at hr
  · exact settleEvent_path (failOwner_path tag e .TIMEOUT ((Path.work .refl (.timeOut e.line he)).post _ _ _ _)) hr
  · exact next_path .refl hr

theorem execHoldExpiry_path {tag : HostTag} (hr : execHoldExpiry tag s = .next t) : Path s t := by
  rw [execHoldExpiry] at hr
  split at hr
  · rename_i c _ hc
    split at hr
    · exact settleEvent_path ((Path.endContext .refl hc .EXPIRED none).post _ _ _ _) hr
    · exact next_path .refl hr
  · exact next_path .refl hr

theorem accessNow_path {tag : HostTag} {c : Context} (hc : contextOf s tag = some c)
    (hr : accessNow tag c s = .next t) : Path s t := by
  have h := hostAtFront_path (s := stopWaiting (.host tag) s) true hc
  exact settleEvent_path (Relation.ReflTransGen.trans (Path.stopWaiting .refl (.host tag)) h) hr

theorem execCaptureDecision_path {tag : HostTag} (hr : execCaptureDecision tag s = .next t) : Path s t := by
  rw [execCaptureDecision] at hr
  split at hr
  · exact next_path .refl hr
  · rename_i c hc
    split at hr
    · exact accessNow_path hc hr
    · exact next_path .refl hr

theorem execForwardReadIssue_path {tag : HostTag} (hr : execForwardReadIssue tag s = .next t) : Path s t := by
  rw [execForwardReadIssue] at hr
  split at hr
  · exact next_path .refl hr
  · rename_i c hc
    split at hr
    · exact accessNow_path hc hr
    · exact next_path .refl hr

theorem execRestoreWriteIssue_path (hr : execRestoreWriteIssue s = .next t) : Path s t := by
  rw [execRestoreWriteIssue] at hr
  split at hr
  · exact next_path .refl hr
  · exact next_path .refl hr
  · rename_i slot hq
    split at hr
    · have h := restoreAtFront_path (s := stopWaiting (.restore slot) s) slot true (sequencer_ne_idle_of_placed hq)
      exact settleEvent_path (Relation.ReflTransGen.trans (Path.stopWaiting .refl (.restore slot)) h) hr
    · exact next_path .refl hr

theorem execUpstreamLinkDown_path (hr : execUpstreamLinkDown s = .next t) : Path s t := by
  rw [execUpstreamLinkDown] at hr
  have h : Path s (indicate false false s) := Path.pins .refl _
  split at hr
  · exact next_path h hr
  · exact settle_path ((h.work .orphanAll).post _ _ _ _) hr

end

/-! ## Commands -/

/-- What a command can do. The two scrubber visits and the loss of the downstream link are kept apart: a law that needs
more than itself there, or that holds only once the loss is over, is shown for them alone. -/
inductive Effect (s t : State) : Prop
  | path : Path s t → Effect s t
  | visit : s.ss.sweeping = true → s.ss.position ≠ Config.lastStamp →
      t = { visitStamp s with ss := { s.ss with position := s.ss.position + 1 } } → Effect s t
  | lastVisit : s.ss.sweeping = true → s.ss.position = Config.lastStamp → t = completePass (visitStamp s) → Effect s t
  | loseDownstream : s.dp.link ≠ .DOWN → Path (loseDownstream (indicate true false s)) t → Effect s t

theorem exec_effect {c : Instr} {s t : State} (hr : exec c s = .next t) : Effect s t := by
  have direct (u : State) (h : Path s u) (hr : (Outcome.next u : Outcome State Fault Refusal) = .next t) :
      Effect s t := .path (next_path h hr)
  cases c with
  | rpy f => exact .path (execRpy_path hr)
  | sts f => exact .path (execSts_path hr)
  | rcf f => exact .path (execRcf_path hr)
  | wcf f => exact .path (execWcf_path hr)
  | rgi f => exact .path (execRgi_path hr)
  | rgr f => exact .path (execRgr_path hr)
  | rgm f => exact .path (execRgm_path hr)
  | rgq f => exact .path (execRgq_path hr)
  | mrk f => exact .path (commandEpoch_path hr)
  | cmt f => exact .path (commandEpoch_path hr)
  | rbk f => exact .path (commandEpoch_path hr)
  | abn f => exact .path (commandEpoch_path hr)
  | dsc f => exact .path (commandEpoch_path hr)
  | epq f => exact .path (execEpq_path hr)
  | jst f => exact .path (execJst_path hr)
  | jrq f => exact .path (execJrq_path hr)
  | jrd f => exact .path (execJrd_path hr)
  | evp f => exact .path (execEvp_path hr)
  | wts f => exact .path (execWts_path hr)
  | wtq f => exact .path (execWtq_path hr)
  | rls f => exact .path (execRls_path hr)
  | rlq f => exact .path (execRlq_path hr)
  | drs f b => exact .path (execDrs_path hr)
  | badFrame n l =>
    change execBadFrame n l s = _ at hr
    rw [execBadFrame] at hr
    split at hr
    · exact direct _ closeFrame_path hr
    split at hr
    · exact direct _ (closeFrame_path.frame _) hr
    · exact direct _ .refl hr
  | unknownCommand code f => exact .path (execUnknownCommand_path hr)
  | powerOn => exact direct _ (resetDevice_path true .refl) hr
  | rstNReset => exact direct _ (resetDevice_path true .refl) hr
  | resetEnd b =>
    change execResetEnd b s = _ at hr
    rw [execResetEnd] at hr
    split at hr
    · exact direct _ (endReset_path b .refl) hr
    · exact direct _ .refl hr
  | controlLineLevelChange l b =>
    change execControlLineLevelChange l b s = _ at hr
    rw [execControlLineLevelChange] at hr
    split at hr
    · exact direct _ .refl hr
    · exact direct _ (setLineFilter_path _ _) hr
  | markNFallingEdge =>
    change execMarkNFallingEdge s = _ at hr
    rw [execMarkNFallingEdge] at hr
    split at hr
    · exact .path (lineRequest_path (setLineFilter_path _ _) hr)
    · exact direct _ .refl hr
  | undoNFallingEdge =>
    change execUndoNFallingEdge s = _ at hr
    rw [execUndoNFallingEdge] at hr
    split at hr
    · exact .path (lineRequest_path (setLineFilter_path _ _) hr)
    · exact direct _ .refl hr
  | filterReArm l =>
    change execFilterReArm l s = _ at hr
    rw [execFilterReArm] at hr
    split at hr
    · exact direct _ (setLineFilter_path _ _) hr
    · exact direct _ .refl hr
  | upstreamLinkDown => exact .path (execUpstreamLinkDown_path hr)
  | upstreamLinkUp =>
    change execUpstreamLinkUp s = _ at hr
    rw [execUpstreamLinkUp] at hr
    have h : Path s (indicate false true s) := Path.pins .refl _
    split at hr
    · exact direct _ h hr
    · exact direct _ ((h.work .upstreamUp).post _ _ _ _) hr
  | downstreamLinkDown =>
    change execDownstreamLinkDown s = _ at hr
    rw [execDownstreamLinkDown] at hr
    split at hr
    · exact direct _ (Path.pins .refl _) hr
    · rename_i hg
      exact .loseDownstream (fun h => hg (.inr h)) (settleEvent_path .refl hr)
  | downstreamLinkUp =>
    change execDownstreamLinkUp s = _ at hr
    rw [execDownstreamLinkUp] at hr
    have h : Path s (indicate true true s) := Path.pins .refl _
    split at hr
    · exact direct _ h hr
    · exact direct _ ((h.work .downstreamUp).post _ _ _ _) hr
  | readRequest tag line => exact .path (receiveRequest_path hr)
  | writeRequest tag line m d => exact .path (receiveRequest_path hr)
  | readReply tag r => exact .path (execReadReply_path hr)
  | writeReply tag r => exact .path (execWriteReply_path hr)
  | downstreamTimeout tag => exact .path (execDownstreamTimeout_path hr)
  | holdExpiry tag => exact .path (execHoldExpiry_path hr)
  | seenMarkExpiry k n =>
    change execSeenMarkExpiry k n s = _ at hr
    rw [execSeenMarkExpiry] at hr
    split at hr
    · split at hr
      · exact direct _ (Path.watches .refl _) hr
      · exact direct _ .refl hr
    · exact direct _ .refl hr
  | scrubberVisit =>
    change execScrubberVisit s = _ at hr
    rw [execScrubberVisit] at hr
    split at hr
    · exact direct _ .refl hr
    rename_i hw
    rw [Bool.not_eq_true', Bool.not_eq_false] at hw
    dsimp only at hr
    split at hr
    · rename_i hp
      cases hr
      exact .lastVisit hw hp rfl
    · rename_i hp
      cases hr
      exact .visit hw hp rfl
  | drainCompletion => exact .path (settle_path .refl hr)
  | rollbackEnd =>
    change execRollbackEnd s = _ at hr
    rw [execRollbackEnd] at hr
    split at hr
    · exact .path (settle_path .refl hr)
    · exact direct _ .refl hr
  | captureDecision tag => exact .path (execCaptureDecision_path hr)
  | forwardReadIssue tag => exact .path (execForwardReadIssue_path hr)
  | restoreWriteIssue => exact .path (execRestoreWriteIssue_path hr)
  | csNFallingEdge => exact direct _ (Path.frame .refl _) hr

/-! ## The loss of the downstream link -/

/-- The downstream link DOWN and nothing else changed. -/
def dropLink (s : State) : State := { s with dp := { s.dp with link := .DOWN } }

theorem foldl_path {α : Type} {g : State → α → State} (hg : ∀ {s u : State} a, Path s u → Path s (g u a)) (l : List α) :
    ∀ {s u : State}, Path s u → Path s (l.foldl g u) := by
  induction l with
  | nil => exact id
  | cons a r ih => exact fun h => ih (hg a h)

theorem failWaiting_path {s u : State} (st : Step) (h : Path s u) : Path s (failWaiting u st) := by
  unfold failWaiting
  split
  · split
    · rename_i c hc
      exact h.endContext hc .ERROR none
    · exact h
  · split
    · rename_i hq
      exact h.failRestore (.inr (sequencer_ne_idle_of_placed hq)) .LINK_DOWN _
    · exact h
  · exact h

theorem failSpaceWait_path {s u : State} (t : HostTag) (h : Path s u) : Path s (failSpaceWait u t) := by
  rw [failSpaceWait]
  split
  · rename_i c hc
    split
    · exact h.endContext hc .ERROR none
    · exact h
  · exact h

theorem failEntry_path {s u : State} (p : Nat × TrackerEntry) (h : Path s u) : Path s (failEntry u p) :=
  failOwner_path _ _ _ (h.work (.removeEntry _))

/-- Once the link is DOWN, what its loss brings about is a path of small changes. -/
theorem loseDownstream_path (s : State) : Path (dropLink s) (loseDownstream s) := by
  have h1 : Path (dropLink s) (postEvent .LINK_CHANGE none none (linkDetail true .DOWN) (dropLink s)) :=
    Path.post .refl _ _ _ _
  have h2 := foldl_path failEntry_path s.dp.tracker h1
  exact foldl_path failSpaceWait_path _
    (Path.setTagWait (foldl_path failWaiting_path _ (Path.work h2 .clearQuarantine)) (List.nil_subset _))

/-- A law that small changes keep is kept along a path of them. -/
theorem Path.keeps {P : State → Prop} (change : ∀ {s t}, Change s t → P s → P t) {s t : State} (h : Path s t)
    (hs : P s) : P t := by
  induction h with
  | refl => exact hs
  | tail _ hc ih => exact change hc ih

/-- A law that small changes and the loss of the downstream link keep, and that a scrubber visit from one state keeps,
a step from that state keeps. -/
theorem step_keeps_from {P : State → Prop} (change : ∀ {s t}, Change s t → P s → P t) {s t : State}
    (visit : ∀ l, s.ss.sweeping = true → s.ss.position ≠ Config.lastStamp →
      P { visitStamp { s with pending := l } with ss := { s.ss with position := s.ss.position + 1 } })
    (lastVisit : ∀ l, s.ss.sweeping = true → s.ss.position = Config.lastStamp →
      P (completePass (visitStamp { s with pending := l })))
    (lose : ∀ {u : State}, P u → P (loseDownstream u)) (queue : ∀ l, P { s with pending := l })
    (hr : step s = .next t) : P t := by
  have exec {c : Instr} (l : List Instr) (hr : exec c { s with pending := l } = .next t) : P t := by
    cases exec_effect hr with
    | path h => exact h.keeps change (queue l)
    | visit hw hp ht => exact ht ▸ visit l hw hp
    | lastVisit hw hp ht => exact ht ▸ lastVisit l hw hp
    | loseDownstream _ h =>
      exact h.keeps change (lose ((Path.pins (.refl : Path { s with pending := l } _) _).keeps change (queue l)))
  rw [step] at hr
  split at hr
  · exact exec _ hr
  · split at hr
    · exact exec s.pending hr
    · cases hr
      exact change (.outside (s.now + 1) s.held s.pins s.wu s.mp s.upTx) (queue s.pending)

/-- A law that small changes keep, and the four other changes of a command, every step keeps. -/
theorem step_keeps {P : State → Prop} (change : ∀ {s t}, Change s t → P s → P t)
    (visit : ∀ {s : State}, s.ss.sweeping = true → s.ss.position ≠ Config.lastStamp → P s →
      P { visitStamp s with ss := { s.ss with position := s.ss.position + 1 } })
    (lastVisit : ∀ {s : State}, s.ss.sweeping = true → s.ss.position = Config.lastStamp → P s →
      P (completePass (visitStamp s)))
    (drop : ∀ {s : State}, P s → P (dropLink s)) (queue : ∀ {s : State} l, P s → P { s with pending := l })
    {s t : State} (hs : P s) (hr : step s = .next t) : P t :=
  step_keeps_from change (fun l hw hp => visit hw hp (queue l hs)) (fun l hw hp => lastVisit hw hp (queue l hs))
    (fun h => (loseDownstream_path _).keeps change (drop h)) (fun l => queue l hs) hr

end Sys2Proof.Machine
end


section
/-! PROOFS. What each kind of small change leaves alone; the laws of the event queue (09) and of the command queue. -/

namespace Sys2Proof.Machine

open Sys2Proof.Safety

/-! ## Frames of the small changes -/

theorem foldl_keeps {α : Type} {P : State → Prop} {g : State → State} (hg : ∀ {s}, P s → P (g s)) (l : List α) :
    ∀ {s}, P s → P (l.foldl (fun t _ => g t) s) := by
  induction l with
  | nil => exact id
  | cons a r ih => exact fun h => ih (hg h)

/-- What every release of the innermost run keeps, the release of all runs keeps. -/
theorem releaseAll_keeps {P : State → Prop} {s : State} (hg : ∀ {u}, P u → P (releaseInnermost (eligibleAfter s) u))
    (h : P s) : P (releaseAll s) := 
  foldl_keeps (P := P) (g := releaseInnermost (eligibleAfter s)) hg s.ec.stack h

/-- What an epoch's change may touch. -/
def sameButEpochs (s t : State) : Prop :=
  t = { s with ec := t.ec, jr := t.jr, ip := t.ip, ss := t.ss, stamps := t.stamps }

theorem sameButEpochs_release (eligible : BitVec 16) {s u : State} (h : sameButEpochs s u) :
    sameButEpochs s (releaseInnermost eligible u) := by
  unfold releaseInnermost
  cases u.ec.stack with
  | nil => exact h
  | cons e rest => rw [sameButEpochs] at *; rw [h]; rfl

theorem EpochChange.frame {s t : State} (h : EpochChange s t) : sameButEpochs s t := by
  cases h with
  | release => exact sameButEpochs_release _ rfl
  | releaseAll => exact releaseAll_keeps (fun h => sameButEpochs_release _ h) rfl
  | _ => rfl

theorem WorkChange.frame {s t : State} (h : WorkChange s t) :
    t = { s with upLink := t.upLink, contexts := t.contexts, lht := t.lht, holds := t.holds, dp := t.dp,
                 downTx := t.downTx } := by
  cases h <;> rfl

theorem RegionChange.frame {s t : State} (h : RegionChange s t) : t = { s with regions := t.regions } := by
  cases h <;> rfl

theorem PostedSince.frame {s t : State} (h : PostedSince s t) : t = { s with eq := t.eq } := by
  obtain ⟨q, -, rfl⟩ := h
  rfl

theorem applyItem_frame (item : Nat) (cfg : ConfigItems) (s : State) :
    applyItem item cfg s = { s with cfg := cfg, jr := (applyItem item cfg s).jr, eq := (applyItem item cfg s).eq } := by
  unfold applyItem
  split
  · rfl
  · split <;> rfl

/-! ## The queue of commands -/

theorem Change.pending {s t : State} (h : Change s t) : t.pending = s.pending := by
  cases h with
  | outside => rfl
  | events h => rw [h.frame]
  | popEvent => rfl
  | config => rw [applyItem_frame]
  | region h => rw [h.frame]
  | work h => rw [h.frame]
  | epoch h => rw [h.frame]
  | reset => rfl

theorem Path.pending {s t : State} (h : Path s t) : t.pending = s.pending := by
  induction h with
  | refl => rfl
  | tail _ hc ih => rw [hc.pending, ih]

/-- Settles O2: no small change touches the queue, nor do the changes that a command makes beside them. -/
theorem commandsLeaveTheQueue : Obligations.CommandsLeaveTheQueue := by
  intro c s t hr
  cases exec_effect hr with
  | path h => exact h.pending
  | visit _ _ ht => rw [ht]; exact visitStamp_pending s
  | lastVisit _ _ ht => rw [ht, completePass_pending, visitStamp_pending]
  | loseDownstream _ h => rw [h.pending, (loseDownstream_path _).pending]; rfl

/-! ## The event queue (09 R146, R147, R150) -/

/-- The laws of the event queue together. -/
def eventsLawful (s : State) : Prop := queueBounded s ∧ eventsNumbered s ∧ alertRight s

theorem eventsLawful_congr {s t : State} (hq : t.eq = s.eq) (hm : t.cfg.alertMask = s.cfg.alertMask)
    (h : eventsLawful s) : eventsLawful t := by
  obtain ⟨hb, hn, ha⟩ := h
  refine ⟨?_, ?_, ?_⟩
  · rwa [queueBounded, hq]
  · rwa [eventsNumbered, hq]
  · rwa [alertRight, hq, hm]

/-- Numbers that end at a counter, one more accepted. -/
theorem eventsNumbered_append {l : List (BitVec 16)} {c : BitVec 16}
    (h : l = (List.range l.length).map fun n => c - BitVec.ofNat 16 (l.length - n)) :
    l ++ [c] = (List.range (l.length + 1)).map fun n => c + 1 - BitVec.ofNat 16 (l.length + 1 - n) := by
  rw [List.range_succ, List.map_append]
  congr 1
  · conv_lhs => rw [h]
    refine List.map_congr_left fun n hn => ?_
    have hlt : n < l.length := List.mem_range.mp hn
    have hs : l.length + 1 - n = (l.length - n) + 1 := by omega
    rw [hs, BitVec.ofNat_add]
    exact (add_sub_add_right_eq_sub c _ (1#16)).symm
  · simp

/-- Numbers that end at a counter, the first one gone. -/
theorem eventsNumbered_tail {l : List (BitVec 16)} {c : BitVec 16}
    (h : l = (List.range l.length).map fun n => c - BitVec.ofNat 16 (l.length - n)) :
    l.tail = (List.range l.tail.length).map fun n => c - BitVec.ofNat 16 (l.tail.length - n) := by
  cases l with
  | nil => rfl
  | cons a r =>
    rw [List.length_cons, List.range_succ_eq_map, List.map_cons, List.map_map, List.cons.injEq] at h
    rw [List.tail_cons]
    conv_lhs => rw [h.2]
    refine List.map_congr_left fun n _ => ?_
    simp

theorem eventsNumbered_iff {s : State} : eventsNumbered s ↔
    s.eq.queue.map (·.sequence) = (List.range (s.eq.queue.map (·.sequence)).length).map fun n =>
      s.eq.counter - BitVec.ofNat 16 ((s.eq.queue.map (·.sequence)).length - n) := by
  rw [eventsNumbered, List.length_map]

theorem eventsLawful_postEvent {s : State} (h : eventsLawful s) (k : EventKind) (sq : Option (BitVec 32))
    (l : Option Line) (d : BitVec 16) : eventsLawful (postEvent k sq l d s) := by
  obtain ⟨⟨hlen, hlost⟩, hn, -⟩ := h
  refine ⟨⟨offerEvent_queue_le _ k sq l d s.eq hlen, offerEvent_lost_le _ k sq l d s.eq hlost⟩, ?_,
    alertRight_postEvent k sq l d s⟩
  rw [eventsNumbered_iff] at hn ⊢
  rcases offerEvent_cases s.cfg.alertMask k sq l d s.eq with ⟨-, hq⟩ | ⟨-, hq⟩
  · rw [postEvent_eq, hq, List.map_append, List.length_append]
    exact eventsNumbered_append hn
  · rw [postEvent_eq, hq]
    exact hn

theorem eventsLawful_posted {s t : State} (h : PostedSince s t) (hs : eventsLawful s) : eventsLawful t := by
  obtain ⟨q, hq, rfl⟩ := h
  induction hq with
  | refl => exact hs
  | tail _ hstep ih =>
    obtain ⟨k, sq, l, d, rfl⟩ := hstep
    exact eventsLawful_postEvent ih k sq l d

theorem eventsLawful_popEvent {s : State} (h : eventsLawful s) : eventsLawful (popEvent s) := by
  obtain ⟨⟨hlen, -⟩, hn, -⟩ := h
  refine ⟨⟨List.length_tail.trans_le ((Nat.sub_le _ _).trans hlen), Nat.zero_le _⟩, ?_, alertRight_popEvent s⟩
  rw [eventsNumbered_iff] at hn ⊢
  have ht := eventsNumbered_tail hn
  rwa [← List.map_tail] at ht

theorem eventsLawful_evaluated {s : State} (h : eventsLawful s) (cfg : ConfigItems) :
    eventsLawful { s with cfg := cfg, eq := evaluateAlert cfg.alertMask s.eq } :=
  ⟨h.1, h.2.1, alertRight_of_evaluated rfl⟩

/-- The items but ALERT_MASK leave the mask alone. -/
theorem alertMask_of_writeItem {c cfg : ConfigItems} {item value : Nat} (h : writeItem c item value = some cfg)
    (hi : item ≠ 4) : cfg.alertMask = c.alertMask := by
  unfold writeItem at h
  split at h
  · split at h <;> cases h <;> rfl
  · split at h <;> cases h; rfl
  · split at h <;> cases h; rfl
  · split at h <;> cases h; rfl
  · exact absurd rfl hi
  · split at h <;> cases h; rfl
  · cases h

theorem eventsLawful_config {s : State} {item value : Nat} {cfg : ConfigItems}
    (hc : writeItem s.cfg item value = some cfg) (h : eventsLawful s) : eventsLawful (applyItem item cfg s) := by
  by_cases hi : item = 4
  · subst hi
    exact eventsLawful_evaluated h cfg
  · have hs : eventsLawful { s with cfg := cfg } := 
      eventsLawful_congr (s := s) rfl (alertMask_of_writeItem hc hi) h
    rw [applyItem]
    split
    · exact eventsLawful_posted (testLowWater_posts none { s with cfg := cfg }) (eventsLawful_congr rfl rfl hs)
    · exact hs

theorem eventsLawful_change {s t : State} (h : Change s t) (hs : eventsLawful s) : eventsLawful t := by
  cases h with
  | outside => exact eventsLawful_congr rfl rfl hs
  | events h => exact eventsLawful_posted h hs
  | popEvent => exact eventsLawful_popEvent hs
  | config h => exact eventsLawful_config h hs
  | region h => rw [h.frame]; exact eventsLawful_congr rfl rfl hs
  | work h => rw [h.frame]; exact eventsLawful_congr rfl rfl hs
  | epoch h => rw [h.frame]; exact eventsLawful_congr rfl rfl hs
  | reset hold => exact ⟨⟨Nat.zero_le _, Nat.zero_le _⟩, rfl, alertRight_of_evaluated rfl⟩

/-- Settles O52: an offer, a pop and a write of ALERT_MASK keep the laws; no other small change touches the queue. -/
theorem eventQueueStaysLawful : Obligations.EventQueueStaysLawful := by
  intro s t hb hn ha hr
  exact step_keeps eventsLawful_change (fun _ _ => eventsLawful_congr rfl rfl) (fun _ _ => eventsLawful_congr rfl rfl)
    (eventsLawful_congr rfl rfl) (fun _ => eventsLawful_congr rfl rfl) ⟨hb, hn, ha⟩ hr

end Sys2Proof.Machine
end


section
/-! PROOFS. The identifiers: each in one place (06 R102), and no stamp but NONE outside the retiring list and the id sets
(06 R104 to R107). -/

namespace Sys2Proof.Machine

open Sys2Proof.Safety

/-! ## The innermost epoch changed -/

section
variable {ec : EpochController}

@[simp] theorem mapInnermost_cons {g : Epoch → Epoch} {e : Epoch} {rest : List Epoch} (h : ec.stack = e :: rest) :
    (mapInnermost g ec).stack = g e :: rest := by
  rw [mapInnermost, h]

@[simp] theorem mapInnermost_nil {g : Epoch → Epoch} (h : ec.stack = []) : (mapInnermost g ec).stack = [] := by
  rw [mapInnermost, h]

/-- What the change of the innermost epoch leaves alone, it leaves alone in the whole stack. -/
theorem map_mapInnermost {α : Type} (f : Epoch → α) {g : Epoch → Epoch} (hg : ∀ e, f (g e) = f e) :
    (mapInnermost g ec).stack.map f = ec.stack.map f := by
  cases h : ec.stack with
  | nil => rw [mapInnermost_nil h]
  | cons e rest => rw [mapInnermost_cons h, List.map_cons, List.map_cons, hg]

end

/-- The released epoch is gone from the stack (02 R18). -/
theorem releaseInnermost_stack (eligible : BitVec 16) (s : State) :
    (releaseInnermost eligible s).ec.stack = s.ec.stack.tail := by
  rw [releaseInnermost]
  split
  · rename_i h
    rw [h]; rfl
  · rfl

/-! ## Each identifier in one place -/

/-- The places of an identifier: the free list, the retiring list and the id sets. -/
def places (s : State) : List Ident := s.ip.free ++ s.ip.retiring.map (·.id) ++ (s.ec.stack.map (·.ids)).flatten

theorem identifiersPlaced_iff {s : State} : identifiersPlaced s ↔
    (places s).Perm [1, 2, 3, 4, 5, 6, 7, 8, 9, 10, 11, 12, 13, 14, 15] := by
  rw [identifiersPlaced, places, List.flatMap_def]

theorem places_congr {s t : State} (hi : t.ip = s.ip) (hs : t.ec.stack.map (·.ids) = s.ec.stack.map (·.ids)) :
    (places t).Perm (places s) := by
  rw [places, places, hi, hs]

/-- Identifiers of the innermost epoch retire with it. -/
theorem places_retire (l a b c : List Ident) : (l ++ (a ++ b) ++ c).Perm (l ++ a ++ (b ++ c)) := by
  simp only [List.append_assoc, List.Perm.refl]

theorem places_release (eligible : BitVec 16) (s : State) : (places (releaseInnermost eligible s)).Perm (places s) := by
  cases h : s.ec.stack with
  | nil => simp [releaseInnermost, h]
  | cons e rest =>
    have hr : (retire eligible e.ids s).ip.retiring.map (·.id) = s.ip.retiring.map (·.id) ++ e.ids := by
      simp [Function.comp_def]
    have hs := releaseInnermost_stack eligible s
    have hi : (releaseInnermost eligible s).ip = (retire eligible e.ids s).ip := by rw [releaseInnermost, h]; rfl
    rw [places, places, hs, hi, hr, h]
    exact places_retire _ _ _ _

theorem places_push {s : State} {own : Ident} {rest : List Ident} (o : Origin) (h : s.ip.free = own :: rest) :
    (places (pushEpoch own rest o s)).Perm (places s) := by
  rw [places, places, h]
  exact List.perm_middle

theorem places_merge {s : State} {e p : Epoch} {rest : List Epoch} (h : s.ec.stack = e :: p :: rest) :
    (places (mergeInnermost e p s)).Perm (places s) := by
  have hstack : (mergeInnermost e p s).ec.stack = mergedParent e p :: rest :=
    mapInnermost_cons (by rw [popEpoch_ec_stack, h, List.tail_cons])
  have hretiring : (mergeInnermost e p s).ip.retiring.map (·.id) =
      s.ip.retiring.map (·.id) ++ mergeRetires e p := by
    simp [mergeInnermost, Function.comp_def]
  have hfree : (mergeInnermost e p s).ip.free = s.ip.free := rfl
  rw [places, places, hstack, hretiring, hfree, h]
  simp only [List.map_cons, List.flatten_cons, mergedParent, mergeRetires]
  rw [← List.append_assoc s.ip.free, List.append_assoc (_ ++ _)]
  refine List.Perm.append_left _ ?_
  split
  · rw [List.nil_append, ← List.append_assoc]
    exact List.perm_append_comm.append_right _
  · exact .refl _

theorem places_epoch {s t : State} (h : EpochChange s t) : (places t).Perm (places s) := by
  cases h with
  | push o _ hf => exact places_push o hf
  | beginClosing => exact places_congr rfl (map_mapInnermost _ fun _ => rfl)
  | reserve => exact places_congr rfl (map_mapInnermost _ fun _ => rfl)
  | dropVoid => exact places_congr rfl (map_mapInnermost _ fun _ => rfl)
  | dropWritten => exact places_congr rfl (map_mapInnermost _ fun _ => rfl)
  | release => exact places_release _ s
  | releaseAll =>
    exact releaseAll_keeps (P := fun u => (places u).Perm (places s)) (fun h => (places_release _ _).trans h) (.refl _)
  | merge hs => exact places_merge hs
  | reopen => exact places_congr rfl (map_mapInnermost _ fun _ => rfl)
  | startRestore => exact places_congr rfl (map_mapInnermost _ fun _ => rfl)
  | endRollback hs =>
    rename_i e rest _ _ _
    have hr : (retire (eligibleAfter s) e.ids (popEpoch s)).ip.retiring.map (·.id) =
        s.ip.retiring.map (·.id) ++ e.ids := by simp [Function.comp_def]
    have ht : (popEpoch s).ec.stack = rest := by rw [popEpoch_ec_stack, hs, List.tail_cons]
    change (s.ip.free ++ (retire _ e.ids (popEpoch s)).ip.retiring.map (·.id) ++
      ((popEpoch s).ec.stack.map (·.ids)).flatten).Perm _
    rw [places, hr, ht, hs]
    exact places_retire _ _ _ _
  | halt => exact places_congr rfl (map_mapInnermost _ fun _ => rfl)
  | breakAll => exact places_congr rfl (by simp [breakAll])
  | _ => exact places_congr rfl rfl

theorem identifiersPlaced_change {s t : State} (h : Change s t) (hs : identifiersPlaced s) : identifiersPlaced t := by
  cases h with
  | outside => exact hs
  | events h => rw [h.frame]; exact hs
  | popEvent => exact hs
  | config => rw [applyItem_frame]; exact hs
  | region h => rw [h.frame]; exact hs
  | work h => rw [h.frame]; exact hs
  | epoch h => exact identifiersPlaced_iff.mpr ((places_epoch h).trans (identifiersPlaced_iff.mp hs))
  | reset => exact .refl _

/-- Identifiers return from the retiring list to the free list (06 R107). -/
theorem places_completePass (s : State) : (places (completePass s)).Perm (places s) := by
  have hsplit : ((s.ip.retiring.filter fun r => r.eligibleAfter == s.ss.pass).map (·.id) ++
      (s.ip.retiring.filter fun r => r.eligibleAfter != s.ss.pass).map (·.id)).Perm (s.ip.retiring.map (·.id)) := by
    rw [← List.map_append]
    exact (List.filter_append_perm _ _).map _
  change ((s.ip.free ++ (s.ip.retiring.filter fun r => r.eligibleAfter == s.ss.pass).map (·.id)) ++
    (s.ip.retiring.filter fun r => r.eligibleAfter != s.ss.pass).map (·.id) ++ _).Perm _
  rw [places, List.append_assoc s.ip.free]
  exact (hsplit.append_left _).append_right _

/-- Settles O53: an epoch's change moves identifiers between the places, and so does the end of a pass. -/
theorem identifiersStayPlaced : Obligations.IdentifiersStayPlaced := by
  intro s t hs hr
  exact step_keeps identifiersPlaced_change (fun _ _ h => h)
    (fun _ _ h => identifiersPlaced_iff.mpr ((places_completePass _).trans (identifiersPlaced_iff.mp h)))
    (fun h => h) (fun _ h => h) hs hr

end Sys2Proof.Machine
end


section
/-! PROOFS. The epoch stack, pending and the sequencer (02 R17, R18, R33; 05 R82, R90). -/

namespace Sys2Proof.Machine

open Sys2Proof.Safety

/-- The laws of the epoch controller together. -/
def epochsLawful (s : State) : Prop := stackLawful s ∧ pendingLawful s ∧ sequencerLawful s

section
variable {s t : State} {e e' : Epoch} {rest : List Epoch}

theorem epochsLawful_congr (h : t.ec = s.ec) (hs : epochsLawful s) : epochsLawful t := by
  unfold epochsLawful stackLawful pendingLawful sequencerLawful innermostState innermost at *
  rwa [h]

/-- With the innermost epoch not RESTORING the sequencer is IDLE (05 R90). -/
theorem sequencer_idle (hs : epochsLawful s) (h : innermostState s ≠ some .RESTORING) : s.ec.sequencer = .IDLE := by
  by_contra hq
  obtain ⟨e, r, hstack, he, -⟩ := hs.2.2 hq
  exact h (by rw [innermostState_of_stack hstack, he])

/-- The state of the innermost epoch is that of the top of the stack. -/
theorem stack_of_innermostState {st : EpochState} (h : innermostState s = some st) :
    ∃ e rest, s.ec.stack = e :: rest ∧ e.state = st := by
  obtain ⟨e, he, hst⟩ := Option.map_eq_some_iff.mp h
  obtain ⟨rest, hs⟩ := innermost_some_iff.mp he
  exact ⟨e, rest, hs, hst⟩

/-- The innermost epoch replaced by one with its level and sequence. -/
theorem epochsLawful_replace (hs : epochsLawful s) (hstack : s.ec.stack = e :: rest) (ht : t.ec.stack = e' :: rest)
    (hcounter : t.ec.counter = s.ec.counter) (hlevel : e'.level = e.level) (hsequence : e'.sequence = e.sequence)
    (hpending : e'.pending.isSome = true ↔ e'.state = .DRAINING)
    (horigin : t.ec.closingOrigin.isSome = true ↔ e'.state = .DRAINING)
    (hsequencer : t.ec.sequencer ≠ .IDLE → e'.state = .RESTORING ∧ 1 ≤ e'.runLength) : epochsLawful t := by
  obtain ⟨⟨hlen, hlevels, hopen, hpairs, hcount⟩, ⟨hpend, -⟩, -⟩ := hs
  rw [hstack] at hlen hlevels hopen hpairs hcount hpend
  refine ⟨⟨?_, ?_, ?_, ?_, ?_⟩, ⟨?_, ?_⟩, fun hq => ?_⟩
  · rw [ht]; exact hlen
  · rw [ht]; exact ⟨hlevel.trans hlevels.1, hlevels.2⟩
  · rw [ht]; exact hopen
  · rw [ht, List.map_cons, hsequence]; exact hpairs
  · rw [ht, hcounter]
    intro x hx
    rcases List.mem_cons.mp hx with rfl | hx
    · rw [hsequence]; exact hcount e (List.mem_cons_self ..)
    · exact hcount x (List.mem_cons_of_mem _ hx)
  · rw [ht]
    intro x hx
    rcases List.mem_cons.mp hx with rfl | hx
    · exact hpending
    · exact hpend x (List.mem_cons_of_mem _ hx)
  · rw [innermostState_of_stack ht, Option.some_inj]; exact horigin
  · exact ⟨e', rest, ht, hsequencer hq⟩

/-- The innermost epoch gone, with nothing pending and the sequencer IDLE. -/
theorem epochsLawful_pop (hs : epochsLawful s) (ht : t.ec.stack = s.ec.stack.tail)
    (hcounter : t.ec.counter = s.ec.counter) (horigin : t.ec.closingOrigin = none) (hq : t.ec.sequencer = .IDLE) :
    epochsLawful t := by
  obtain ⟨⟨hlen, hlevels, hopen, hpairs, hcount⟩, ⟨hpend, -⟩, -⟩ := hs
  refine ⟨⟨?_, ?_, ?_, ?_, ?_⟩, ⟨?_, ?_⟩, fun h => absurd hq h⟩
  · rw [ht, List.length_tail]; exact (Nat.sub_le _ _).trans hlen
  · rw [ht]
    cases h : s.ec.stack with
    | nil => trivial
    | cons x r => rw [h] at hlevels; exact hlevels.2
  · rw [ht]; exact fun x hx => hopen x (List.mem_of_mem_tail hx)
  · rw [ht, List.map_tail]; exact hpairs.tail
  · rw [ht, hcounter]; exact fun x hx => hcount x (List.mem_of_mem_tail hx)
  · rw [ht]; exact fun x hx => hpend x (List.mem_of_mem_tail hx)
  · have hne : innermostState t ≠ some .DRAINING := by
      intro h
      obtain ⟨x, r, hx, hst⟩ := stack_of_innermostState h
      have := hopen x (ht ▸ hx ▸ List.mem_cons_self ..)
      rw [hst] at this
      cases this
    simp [horigin, hne]

/-- A new OPEN epoch on a stack whose innermost is OPEN, if any (02 R31, R33). -/
theorem epochsLawful_push (hs : epochsLawful s) (hr : refusalOf s .MRK = none) (own : Ident) (free : List Ident)
    (o : Origin) : epochsLawful (pushEpoch own free o s) := by
  obtain ⟨hd, hre, hh, -, hroom, -⟩ := refusalOf_none hr
  obtain ⟨hdepth, -, hlast⟩ := hroom rfl
  have hhalted := hh (.inl rfl)
  have hidle := sequencer_idle hs hre
  obtain ⟨⟨hlen, hlevels, hopen, hpairs, hcount⟩, ⟨hpend, horigin⟩, -⟩ := hs
  have hall : ∀ e ∈ s.ec.stack, e.state = .OPEN := by
    intro e he
    cases hst : s.ec.stack with
    | nil => rw [hst] at he; cases he
    | cons x r =>
      rw [hst] at he hopen
      rw [innermostState_of_stack hst] at hd hre hhalted
      rcases List.mem_cons.mp he with rfl | he
      · cases h : e.state <;> simp_all
      · exact hopen e he
  have hsucc : (s.ec.counter + 1).toNat = s.ec.counter.toNat + 1 := by
    rw [ne_eq, eq_lastSequence_iff] at hlast
    bv_omega
  refine ⟨⟨hdepth, ⟨rfl, hlevels⟩, hall, ?_, ?_⟩, ⟨?_, ?_⟩, fun h => absurd hidle h⟩
  · refine List.pairwise_cons.mpr ⟨fun n hn => ?_, hpairs⟩
    obtain ⟨e, he, rfl⟩ := List.mem_map.mp hn
    have hle : e.sequence.toNat ≤ s.ec.counter.toNat := hcount e he
    exact (Nat.lt_succ_of_le hle).trans_eq hsucc.symm
  · intro e he
    rcases List.mem_cons.mp he with rfl | he
    · exact BitVec.le_refl _
    · have hle : e.sequence.toNat ≤ s.ec.counter.toNat := hcount e he
      exact BitVec.le_def.mpr ((Nat.le_succ_of_le hle).trans_eq hsucc.symm)
  · intro e he
    rcases List.mem_cons.mp he with rfl | he
    · exact ⟨nofun, nofun⟩
    · exact hpend e he
  · refine ⟨fun h => absurd (horigin.mp h) hd, nofun⟩

/-- The facts of a lawful stack's innermost epoch. -/
theorem epochsLawful_top (hs : epochsLawful s) (hstack : s.ec.stack = e :: rest) :
    (e.pending.isSome = true ↔ e.state = .DRAINING) ∧ (s.ec.closingOrigin.isSome = true ↔ e.state = .DRAINING) ∧
      (s.ec.sequencer ≠ .IDLE → e.state = .RESTORING ∧ 1 ≤ e.runLength) := by
  obtain ⟨-, ⟨hpend, horigin⟩, hseq⟩ := hs
  rw [innermostState_of_stack hstack, Option.some_inj] at horigin
  refine ⟨hpend e (hstack ▸ List.mem_cons_self ..), horigin, fun hq => ?_⟩
  obtain ⟨x, r, hx, hst, hrun⟩ := hseq hq
  obtain ⟨rfl, rfl⟩ : e = x ∧ rest = r := by rw [hstack] at hx; simpa using hx
  exact ⟨hst, hrun⟩

/-- The innermost run grown or shrunk, with a run left while the sequencer works. -/
theorem epochsLawful_run (hs : epochsLawful s) (hstack : s.ec.stack = e :: rest) (ht : t.ec.stack = e' :: rest)
    (hcounter : t.ec.counter = s.ec.counter) (horigin : t.ec.closingOrigin = s.ec.closingOrigin)
    (hlevel : e'.level = e.level) (hsequence : e'.sequence = e.sequence) (hpending : e'.pending = e.pending)
    (hstate : e'.state = e.state)
    (hsequencer : t.ec.sequencer ≠ .IDLE → e.state = .RESTORING ∧ 1 ≤ e'.runLength) : epochsLawful t := by
  obtain ⟨hp, ho, -⟩ := epochsLawful_top hs hstack
  exact epochsLawful_replace hs hstack ht hcounter hlevel hsequence (by rwa [hpending, hstate])
    (by rwa [horigin, hstate]) (by rwa [hstate])

theorem epochsLawful_release (eligible : BitVec 16) (hs : epochsLawful s) (hq : s.ec.sequencer = .IDLE) :
    epochsLawful (releaseInnermost eligible s) ∧ (releaseInnermost eligible s).ec.sequencer = .IDLE := by
  have hstack := releaseInnermost_stack eligible s
  cases h : s.ec.stack with
  | nil => rw [releaseInnermost, h]; exact ⟨hs, hq⟩
  | cons e rest =>
    rw [releaseInnermost, h] at hstack ⊢
    exact ⟨epochsLawful_pop hs (hstack.trans (by rw [h])) rfl rfl hq, hq⟩

theorem epochsLawful_breakAll (hs : epochsLawful s) : epochsLawful (breakAll s) := by
  obtain ⟨⟨hlen, hlevels, hopen, hpairs, hcount⟩, ⟨hpend, horigin⟩, hseq⟩ := hs
  have hlv : ∀ l : List Epoch, levelsRight l → levelsRight (l.map fun e => { e with broken := true }) := by
    intro l
    induction l with
    | nil => exact id
    | cons x r ih => exact fun h => ⟨by rw [List.length_map]; exact h.1, ih h.2⟩
  have hinner : innermostState (breakAll s) = innermostState s := by
    simp [innermostState, innermost, breakAll, Function.comp_def]
  refine ⟨⟨?_, hlv _ hlevels, ?_, ?_, ?_⟩, ⟨?_, ?_⟩, fun hq => ?_⟩
  · exact (List.length_map _).trans_le hlen
  · simpa [breakAll, ← List.map_tail] using hopen
  · simpa [breakAll, Function.comp_def] using hpairs
  · simpa [breakAll] using hcount
  · simpa [breakAll] using hpend
  · rw [hinner]; exact horigin
  · obtain ⟨e, r, hstack, he⟩ := hseq hq
    exact ⟨{ e with broken := true }, r.map fun e => { e with broken := true }, by rw [breakAll, hstack]; rfl, he⟩

end

theorem epochsLawful_epoch {s t : State} (h : EpochChange s t) (hs : epochsLawful s) : epochsLawful t := by
  cases h with
  | push o hr => exact epochsLawful_push hs hr _ _ o
  | beginClosing o hr hop =>
    rename_i op
    obtain ⟨-, hre, -, hne, -⟩ := refusalOf_none hr
    obtain ⟨e, rest, hstack⟩ := List.exists_cons_of_ne_nil (hne hop)
    refine epochsLawful_replace hs hstack (mapInnermost_cons hstack) rfl rfl rfl ?_ (by simp [beginClosing])
      fun h => absurd (sequencer_idle hs hre) h
    cases op with
    | MRK => exact absurd rfl hop
    | _ => exact ⟨fun _ => rfl, fun _ => rfl⟩
  | reserve hn =>
    obtain ⟨-, -, -, e, rest, hstack, -⟩ := captureNeed_capture hn
    exact epochsLawful_run hs hstack (mapInnermost_cons hstack) rfl rfl rfl rfl rfl rfl fun hq =>
      ⟨((epochsLawful_top hs hstack).2.2 hq).1, Nat.succ_pos _⟩
  | dropVoid hstack _ _ hq =>
    exact epochsLawful_run hs hstack (mapInnermost_cons hstack) rfl rfl rfl rfl rfl rfl fun h => absurd hq h
  | dropWritten hq =>
    obtain ⟨e, rest, hstack, -⟩ := hs.2.2 (sequencer_ne_idle_of_writing hq)
    exact epochsLawful_run hs hstack (mapInnermost_cons hstack) rfl rfl rfl rfl rfl rfl fun h => absurd rfl h
  | release hd => exact (epochsLawful_release _ hs (sequencer_idle hs (by simp [hd]))).1
  | releaseAll hd =>
    exact (releaseAll_keeps (P := fun u => epochsLawful u ∧ u.ec.sequencer = .IDLE)
      (fun h => epochsLawful_release _ h.1 h.2) ⟨hs, sequencer_idle hs (by simp [hd])⟩).1
  | merge hstack he =>
    rename_i e p rest
    have hq := sequencer_idle hs (by rw [innermostState_of_stack hstack, he]; simp)
    have hpop : epochsLawful (popEpoch s) := epochsLawful_pop hs rfl rfl rfl hq
    have htop : (popEpoch s).ec.stack = p :: rest := by rw [popEpoch_ec_stack, hstack, List.tail_cons]
    exact epochsLawful_run hpop htop (mapInnermost_cons htop) rfl rfl rfl rfl rfl rfl fun h => absurd hq h
  | reopen hd =>
    obtain ⟨e, rest, hstack, -⟩ := stack_of_innermostState hd
    exact epochsLawful_replace hs hstack (mapInnermost_cons hstack) rfl rfl rfl ⟨nofun, nofun⟩ ⟨nofun, nofun⟩
      fun h => absurd (sequencer_idle hs (by simp [hd])) h
  | startRestore hd =>
    obtain ⟨e, rest, hstack, -⟩ := stack_of_innermostState hd
    exact epochsLawful_replace hs hstack (mapInnermost_cons hstack) rfl rfl rfl ⟨nofun, nofun⟩ ⟨nofun, nofun⟩
      fun h => absurd (sequencer_idle hs (by simp [hd])) h
  | endRollback => exact epochsLawful_pop hs rfl rfl rfl rfl
  | place slot hstack he hn =>
    exact epochsLawful_run hs hstack hstack rfl rfl rfl rfl rfl rfl fun _ => ⟨he, Nat.one_le_iff_ne_zero.mpr hn⟩
  | write slot hq => exact ⟨hs.1, hs.2.1, fun _ => hs.2.2 hq⟩
  | halt hr =>
    have hrestoring : innermostState s = some .RESTORING := hr.elim id fun hq => by
      obtain ⟨e, rest, hstack, he, -⟩ := hs.2.2 hq
      rw [innermostState_of_stack hstack, he]
    obtain ⟨e, rest, hstack, he⟩ := stack_of_innermostState hrestoring
    obtain ⟨hp, ho, -⟩ := epochsLawful_top hs hstack
    simp only [he, reduceCtorEq, iff_false] at hp ho
    exact epochsLawful_replace hs hstack (mapInnermost_cons hstack) rfl rfl rfl ⟨fun h => absurd h hp, nofun⟩
      ⟨fun h => absurd h ho, nofun⟩ fun h => absurd rfl h
  | breakAll => exact epochsLawful_breakAll hs
  | _ => exact epochsLawful_congr rfl hs

theorem epochsLawful_reset (hold : Bool) (s : State) : epochsLawful (resetDevice hold s) :=
  ⟨⟨Nat.zero_le _, trivial, nofun, .nil, nofun⟩, ⟨nofun, nofun, nofun⟩, fun h => absurd rfl h⟩

theorem epochsLawful_change {s t : State} (h : Change s t) (hs : epochsLawful s) : epochsLawful t := by
  cases h with
  | outside => exact hs
  | events h => rw [h.frame]; exact hs
  | popEvent => exact hs
  | config => rw [applyItem_frame]; exact hs
  | region h => rw [h.frame]; exact hs
  | work h => rw [h.frame]; exact hs
  | epoch h => exact epochsLawful_epoch h hs
  | reset hold => exact epochsLawful_reset hold s

/-- Settles O55: the three laws together are kept by every change of the epochs, since a closing operation ends only a
DRAINING epoch, under which the sequencer is IDLE. -/
theorem stackStaysLawful : Obligations.StackStaysLawful := by
  intro s t hstack hpending hsequencer hr
  exact step_keeps epochsLawful_change (fun _ _ h => h) (fun _ _ h => h) (fun h => h) (fun _ h => h)
    ⟨hstack, hpending, hsequencer⟩ hr

end Sys2Proof.Machine
end


section
/-! PROOFS. The stamps: NONE, retiring or in an id set, and cleared before their identifier is free (06 R104 to R107). -/

namespace Sys2Proof.Machine

open Sys2Proof.Safety

/-! ## Reading a store in canonical form -/

theorem tableGet_of_mem {α : Type} {t : Table α} {k : Nat} {v : α} (hw : tableWf t = true) (h : (k, v) ∈ t) :
    tableGet t k = some v := by
  induction t with
  | nil => cases h
  | cons q r ih =>
    obtain ⟨k', v'⟩ := q
    rw [tableWf_cons] at hw
    rcases List.mem_cons.mp h with h | h
    · cases h; simp [tableGet]
    · have hlt : k' < k := hw.1 _ h
      rw [tableGet, if_neg (by omega), ih hw.2 h]

theorem key_ne_of_mem_erase {α : Type} {t : Table α} {k : Nat} {p : Nat × α} (hw : tableWf t = true)
    (h : p ∈ tableErase t k) : p.1 ≠ k := by
  intro hk
  have hget := tableGet_of_mem (tableWf_erase t k hw) (show (p.1, p.2) ∈ _ from h)
  rw [hk, tableGet_erase_same t k hw] at hget
  cases hget

theorem mem_stampSet {t : Table Ident} {k : Nat} {v : Ident} {p : Nat × Ident} (h : p ∈ stampSet t k v) :
    (p = (k, v) ∧ v ≠ 0) ∨ p ∈ t := by
  unfold stampSet at h
  split at h
  · exact .inr (mem_tableErase h)
  · rename_i hv
    exact (mem_tableSet h).imp_left fun hp => ⟨hp, hv⟩

theorem tableWf_stampSet {t : Table Ident} (hw : tableWf t = true) (k : Nat) (v : Ident) :
    tableWf (stampSet t k v) = true := by
  unfold stampSet
  split
  · exact tableWf_erase t k hw
  · exact tableWf_set t k v hw

/-! ## The law in two parts -/

/-- The identifiers of the epochs on the stack. -/
def stackIds (s : State) : List Ident := (s.ec.stack.map (·.ids)).flatten

theorem mem_stackIds {s : State} {i : Ident} : i ∈ stackIds s ↔ ∃ e ∈ s.ec.stack, i ∈ e.ids := by
  simp only [stackIds, List.mem_flatten, List.mem_map, exists_exists_and_eq_and]

/-- Every stamp is retiring or in an id set (06 R106). -/
def stampsOwned (s : State) : Prop := ∀ p ∈ s.stamps, p.2 ∈ s.ip.retiring.map (·.id) ++ stackIds s

/-- Every retiring identifier waits for this pass or the next, and the stamps already visited hold none that waits for
this one; with no pass in progress nothing retires (06 R104). -/
def passLawful (s : State) : Prop :=
  (s.ss.sweeping = false → s.ip.retiring = []) ∧
    (∀ r ∈ s.ip.retiring, r.eligibleAfter = s.ss.pass ∨ r.eligibleAfter = s.ss.pass + 1) ∧
    ∀ r ∈ s.ip.retiring, r.eligibleAfter = s.ss.pass → ∀ p ∈ s.stamps, p.2 = r.id → s.ss.position.toNat ≤ p.1

theorem stampsAccounted_iff {s : State} : stampsAccounted s ↔ stampsOwned s ∧ passLawful s := by
  simp only [stampsAccounted, stampsOwned, passLawful, List.mem_append, mem_stackIds]

/-- What the stamp law needs of its state: identifiers in one place each, and stamps in canonical form. -/
def stampsLawful (s : State) : Prop :=
  identifiersPlaced s ∧ tableWf s.stamps = true ∧ stampsOwned s ∧ passLawful s

/-- A retiring identifier is in no id set. -/
theorem not_mem_stackIds_of_retiring {s : State} (h : identifiersPlaced s) {r : Retiring} (hr : r ∈ s.ip.retiring) :
    r.id ∉ stackIds s := by
  have hnodup : (places s).Nodup := (identifiersPlaced_iff.mp h).nodup_iff.mpr (by decide)
  rw [places, List.append_assoc] at hnodup
  exact fun hi => (List.disjoint_of_nodup_append (List.Nodup.of_append_right hnodup)) (List.mem_map_of_mem hr) hi

section
variable {s t : State}

theorem stampsLawful_congr (h : stampsLawful s) (hst : t.stamps = s.stamps) (hip : t.ip = s.ip) (hss : t.ss = s.ss)
    (hids : t.ec.stack.map (·.ids) = s.ec.stack.map (·.ids)) : stampsLawful t := by
  obtain ⟨hplaced, hwf, howned, hpass⟩ := h
  refine ⟨identifiersPlaced_iff.mpr ((places_congr hip hids).trans (identifiersPlaced_iff.mp hplaced)), ?_, ?_, ?_⟩
  · rwa [hst]
  · rwa [stampsOwned, stackIds, hids, hip, hst]
  · rwa [passLawful, hip, hss, hst]

/-- A stamp cleared or set to an identifier of an id set (04 R72, R74). -/
theorem stampsLawful_set {k : Nat} {v : Ident} (hv : v ≠ 0 → v ∈ stackIds s) (h : stampsLawful s) :
    stampsLawful { s with stamps := stampSet s.stamps k v } := by
  obtain ⟨hplaced, hwf, howned, hidle, hwait, hvisited⟩ := h
  refine ⟨hplaced, tableWf_stampSet hwf k v, fun p hp => ?_, hidle, hwait, fun r hr he p hp hid => ?_⟩
  · rcases mem_stampSet hp with ⟨rfl, hne⟩ | hp
    · exact List.mem_append_right _ (hv hne)
    · exact howned p hp
  · rcases mem_stampSet hp with ⟨rfl, hne⟩ | hp
    · exact absurd (hid ▸ hv hne) (not_mem_stackIds_of_retiring hplaced hr)
    · exact hvisited r hr he p hp hid

/-! ## Identifiers retire (06 R103, R104) -/

/-- What identifiers that retire in one event may wait for: the pass after the one in progress, or the one that an
earlier of them has started. -/
def eligibleNow (eligible : BitVec 16) (s : State) : Prop :=
  eligible = s.ss.pass + 1 ∨ (s.ss.sweeping = true ∧ s.ss.position = 0 ∧ eligible = s.ss.pass)

theorem passLawful_retire {eligible : BitVec 16} (ids : List Ident) (he : eligibleNow eligible s)
    (h : passLawful s) : passLawful (retire eligible ids s) ∧ eligibleNow eligible (retire eligible ids s) := by
  obtain ⟨hidle, hwait, hvisited⟩ := h
  by_cases hids : ids = []
  · subst hids
    have hr : (retire eligible [] s).ip.retiring = s.ip.retiring := by simp
    have hs : (retire eligible [] s).ss = s.ss := by simp [retire]
    rw [passLawful, eligibleNow, hr, hs, retire_stamps]
    exact ⟨⟨hidle, hwait, hvisited⟩, he⟩
  have hmem : ∀ r ∈ (retire eligible ids s).ip.retiring, r ∈ s.ip.retiring ∨ r.eligibleAfter = eligible := by
    intro r hr
    rw [retire_ip_retiring] at hr
    refine (List.mem_append.mp hr).imp_right fun hr => ?_
    obtain ⟨i, -, rfl⟩ := List.mem_map.mp hr
    rfl
  cases hsw : s.ss.sweeping with
  | false =>
    have hs : (retire eligible ids s).ss = ⟨true, 0, s.ss.pass + 1, s.now⟩ := by simp [retire, hids, hsw]
    have hel : eligible = s.ss.pass + 1 := he.resolve_right fun h => by simp [hsw] at h
    have hall : ∀ r ∈ (retire eligible ids s).ip.retiring, r.eligibleAfter = s.ss.pass + 1 := fun r hr =>
      (hmem r hr).elim (fun h => by rw [hidle hsw] at h; cases h) fun h => h.trans hel
    rw [passLawful, eligibleNow, hs]
    exact ⟨⟨nofun, fun r hr => .inl (hall r hr), fun _ _ _ _ _ _ => Nat.zero_le _⟩, .inr ⟨rfl, rfl, hel⟩⟩
  | true =>
    have hs : (retire eligible ids s).ss = s.ss := by simp [retire, hsw]
    rw [passLawful, eligibleNow, hs, retire_stamps]
    refine ⟨⟨fun h => by simp [hsw] at h, fun r hr => ?_, fun r hr hpass p hp hid => ?_⟩, he⟩
    · exact (hmem r hr).elim (hwait r) fun h => he.elim (fun h' => .inr (h.trans h')) fun h' => .inl (h.trans h'.2.2)
    · rcases hmem r hr with hr | hr
      · exact hvisited r hr hpass p hp hid
      · rcases he with he | ⟨-, hz, -⟩
        · exact absurd (he.symm.trans (hr.symm.trans hpass)) (by simp)
        · rw [hz]; exact Nat.zero_le _

/-- The innermost run released and its identifiers retired. -/
theorem stampsLawful_release {eligible : BitVec 16} (he : eligibleNow eligible s) (h : stampsLawful s) :
    stampsLawful (releaseInnermost eligible s) ∧ eligibleNow eligible (releaseInnermost eligible s) := by
  obtain ⟨hplaced, hwf, howned, hpass⟩ := h
  have hplaced' : identifiersPlaced (releaseInnermost eligible s) :=
    identifiersPlaced_iff.mpr ((places_release eligible s).trans (identifiersPlaced_iff.mp hplaced))
  cases hs : s.ec.stack with
  | nil =>
    rw [releaseInnermost, hs]
    exact ⟨⟨hplaced, hwf, howned, hpass⟩, he⟩
  | cons e rest =>
    have hstack := releaseInnermost_stack eligible s
    rw [releaseInnermost, hs] at hplaced' hstack ⊢
    obtain ⟨hpass', he'⟩ := passLawful_retire e.ids he hpass
    refine ⟨⟨hplaced', hwf, fun p hp => ?_, hpass'⟩, he'⟩
    have hold := howned p hp
    rw [stackIds, hs] at hold
    rw [stackIds, hstack]
    change p.2 ∈ (s.ip.retiring ++ e.ids.map fun i => (⟨i, eligible⟩ : Retiring)).map (fun r => r.id) ++ _
    simpa [Function.comp_def, or_assoc] using hold

/-- Identifiers of the innermost epoch retire as it ends or as its set is too full to be joined (05 R86, R93). -/
theorem stampsLawful_retire {ids : List Ident} (hplaced : identifiersPlaced t) (hst : t.stamps = s.stamps)
    (hip : t.ip = (retire (eligibleAfter s) ids s).ip) (hss : t.ss = (retire (eligibleAfter s) ids s).ss)
    (hids : ∀ i ∈ stackIds s, i ∈ ids ++ stackIds t) (h : stampsLawful s) : stampsLawful t := by
  obtain ⟨-, hwf, howned, hpass⟩ := h
  obtain ⟨hpass', -⟩ := passLawful_retire (s := s) (eligible := eligibleAfter s) ids (.inl rfl) hpass
  refine ⟨hplaced, hst ▸ hwf, fun p hp => ?_, ?_⟩
  · have hr : t.ip.retiring.map (·.id) = s.ip.retiring.map (·.id) ++ ids := by simp [hip, Function.comp_def]
    rw [hr, List.append_assoc]
    exact (List.mem_append.mp (howned p (hst ▸ hp))).elim (List.mem_append_left _)
      fun h => List.mem_append_right _ (hids _ h)
  · rwa [passLawful, hst, hip, hss]

end

theorem headD_mem {l : List Ident} (h : l.headD 0 ≠ 0) : l.headD 0 ∈ l := by
  cases l with
  | nil => exact absurd rfl h
  | cons a r => exact List.mem_cons_self ..

theorem stampsLawful_epoch {s t : State} (h : EpochChange s t) (hs : stampsLawful s) : stampsLawful t := by
  have hplaced : identifiersPlaced t :=
    identifiersPlaced_iff.mpr ((places_epoch h).trans (identifiersPlaced_iff.mp hs.1))
  cases h with
  | push o _ hf =>
    obtain ⟨-, hwf, howned, hpass⟩ := hs
    refine ⟨hplaced, hwf, fun p hp => ?_, hpass⟩
    exact (List.mem_append.mp (howned p hp)).elim (List.mem_append_left _)
      fun h => List.mem_append_right _ (List.mem_append_right _ h)
  | @reserve line k own sequence hn =>
    obtain ⟨-, -, -, e, rest, hstack, -, hown, -⟩ := captureNeed_capture hn
    have hset := stampsLawful_set (k := stampIndex s k line) (v := own) (fun h => ?_) hs
    · exact stampsLawful_congr hset rfl rfl rfl (map_mapInnermost _ fun _ => rfl)
    · rw [hown] at h ⊢
      exact mem_stackIds.mpr ⟨e, hstack ▸ List.mem_cons_self .., headD_mem h⟩
  | revertStamp line old =>
    rw [revertStamp]
    split
    · refine stampsLawful_set (fun h => ?_) hs
      by_cases hin : inSomeIdSet s old = true
      · rw [if_pos hin]
        rw [inSomeIdSet, List.any_eq_true] at hin
        simpa only [mem_stackIds, List.contains_iff_mem] using hin
      · exact absurd (if_neg hin) h
    · exact hs
  | release => exact (stampsLawful_release (.inl rfl) hs).1
  | releaseAll =>
    exact (releaseAll_keeps (P := fun u => stampsLawful u ∧ eligibleNow (eligibleAfter s) u)
      (fun h => stampsLawful_release h.2 h.1) ⟨hs, .inl rfl⟩).1
  | merge hstack =>
    rename_i e p rest _
    have hafter : (mergeInnermost e p s).ec.stack = mergedParent e p :: rest :=
      mapInnermost_cons (by rw [popEpoch_ec_stack, hstack, List.tail_cons])
    refine stampsLawful_retire (s := s) (ids := mergeRetires e p) hplaced rfl rfl rfl (fun i hi => ?_) hs
    rw [stackIds, hstack] at hi
    rw [stackIds, hafter]
    simp only [List.map_cons, List.flatten_cons, List.mem_append] at hi ⊢
    rw [mergedParent, mergeRetires]
    split
    · simp only [List.mem_append]; tauto
    · tauto
  | endRollback hstack =>
    rename_i e rest _ _ _
    have hafter : (popEpoch s).ec.stack = rest := by rw [popEpoch_ec_stack, hstack, List.tail_cons]
    refine stampsLawful_retire (s := s) (ids := e.ids) hplaced rfl rfl rfl (fun i hi => ?_) hs
    rw [stackIds, hstack] at hi
    change i ∈ e.ids ++ ((popEpoch s).ec.stack.map (·.ids)).flatten
    rwa [hafter]
  | breakAll => exact stampsLawful_congr hs rfl rfl rfl (by simp [breakAll])
  | beginClosing => exact stampsLawful_congr hs rfl rfl rfl (map_mapInnermost _ fun _ => rfl)
  | dropVoid => exact stampsLawful_congr hs rfl rfl rfl (map_mapInnermost _ fun _ => rfl)
  | dropWritten => exact stampsLawful_congr hs rfl rfl rfl (map_mapInnermost _ fun _ => rfl)
  | reopen => exact stampsLawful_congr hs rfl rfl rfl (map_mapInnermost _ fun _ => rfl)
  | startRestore => exact stampsLawful_congr hs rfl rfl rfl (map_mapInnermost _ fun _ => rfl)
  | halt => exact stampsLawful_congr hs rfl rfl rfl (map_mapInnermost _ fun _ => rfl)
  | _ => exact stampsLawful_congr hs rfl rfl rfl rfl

theorem stampsLawful_change {s t : State} (h : Change s t) (hs : stampsLawful s) : stampsLawful t := by
  cases h with
  | outside => exact hs
  | events h => rw [h.frame]; exact hs
  | popEvent => exact hs
  | config => rw [applyItem_frame]; exact hs
  | region h => rw [h.frame]; exact hs
  | work h => rw [h.frame]; exact hs
  | epoch h => exact stampsLawful_epoch h hs
  | reset => exact ⟨.refl _, rfl, nofun, fun _ => rfl, nofun, nofun⟩

/-! ## The scrubber's visits (06 R106, R107) -/

theorem visitStamp_cases (s : State) : visitStamp s = s ∨
    visitStamp s = { s with stamps := stampSet s.stamps s.ss.position.toNat 0 } := by
  by_cases h : isRetiring s (stampGet s.stamps s.ss.position.toNat)
  · exact .inr (by simp [visitStamp, h])
  · exact .inl (by simp [visitStamp, h])

theorem stampsLawful_visitStamp {s : State} (h : stampsLawful s) : stampsLawful (visitStamp s) := by
  rcases visitStamp_cases s with hv | hv <;> rw [hv]
  · exact h
  · exact stampsLawful_set (fun h => absurd rfl h) h

/-- Once visited, the stamp at the position holds no retiring identifier. -/
theorem visitStamp_clears {s : State} (hwf : tableWf s.stamps = true) {r : Retiring} (hr : r ∈ s.ip.retiring)
    {p : Nat × Ident} (hp : p ∈ (visitStamp s).stamps) (hid : p.2 = r.id) : p.1 ≠ s.ss.position.toNat := by
  by_cases h : isRetiring s (stampGet s.stamps s.ss.position.toNat)
  · have hst : (visitStamp s).stamps = tableErase s.stamps s.ss.position.toNat := by simp [visitStamp, h, stampSet]
    exact key_ne_of_mem_erase hwf (hst ▸ hp)
  · have hst : (visitStamp s).stamps = s.stamps := by simp [visitStamp, h]
    intro hk
    have hget := tableGet_of_mem hwf (show (p.1, p.2) ∈ s.stamps from hst ▸ hp)
    rw [hk, hid] at hget
    refine h (List.any_eq_true.mpr ⟨r, hr, ?_⟩)
    simp [stampGet, hget]

/-- The stamps that hold an identifier that waits for this pass lie behind the position once it is visited. -/
theorem visitStamp_behind {s : State} (h : stampsLawful s) {r : Retiring} (hr : r ∈ s.ip.retiring)
    (he : r.eligibleAfter = s.ss.pass) {p : Nat × Ident} (hp : p ∈ (visitStamp s).stamps) (hid : p.2 = r.id) :
    s.ss.position.toNat < p.1 := by
  have hpos : s.ss.position.toNat ≤ p.1 := (stampsLawful_visitStamp h).2.2.2.2.2 r hr he p hp hid
  exact lt_of_le_of_ne hpos (visitStamp_clears h.2.1 hr hp hid).symm

theorem stampsLawful_visit {s : State} (hpos : s.ss.position ≠ Config.lastStamp) (h : stampsLawful s) :
    stampsLawful { visitStamp s with ss := { s.ss with position := s.ss.position + 1 } } := by
  obtain ⟨hplaced, hwf, howned, hidle, hwait, -⟩ := stampsLawful_visitStamp h
  refine ⟨hplaced, hwf, howned, hidle, hwait, fun r hr he p hp hid => ?_⟩
  have hlt := visitStamp_behind h hr he hp hid
  have hnext : (s.ss.position + 1).toNat = s.ss.position.toNat + 1 := by
    have : s.ss.position.toNat ≠ 262143 := fun h => hpos (BitVec.eq_of_toNat_eq h)
    bv_omega
  rw [hnext]
  exact hlt

/-- A pass ends with no stamp that holds an identifier it returns. -/
theorem stampsLawful_lastVisit {s : State} (hpos : s.ss.position = Config.lastStamp)
    (hkeys : ∀ p ∈ s.stamps, p.1 ≤ Config.lastStamp.toNat) (h : stampsLawful s) :
    stampsLawful (completePass (visitStamp s)) := by
  obtain ⟨hplaced, hwf, howned, hidle, hwait, -⟩ := stampsLawful_visitStamp h
  have hkeys' : ∀ p ∈ (visitStamp s).stamps, p.1 ≤ Config.lastStamp.toNat := by
    intro p hp
    rcases visitStamp_cases s with hv | hv <;> rw [hv] at hp
    · exact hkeys p hp
    · exact hkeys p ((mem_stampSet hp).resolve_left fun h => h.2 rfl)
  have hnone : ∀ r ∈ s.ip.retiring, r.eligibleAfter = s.ss.pass → ∀ p ∈ (visitStamp s).stamps, p.2 ≠ r.id := by
    intro r hr he p hp hid
    have hlt := visitStamp_behind h hr he hp hid
    rw [hpos] at hlt
    exact absurd (hkeys' p hp) hlt.not_ge
  have hplaced' := identifiersPlaced_iff.mpr ((places_completePass _).trans (identifiersPlaced_iff.mp hplaced))
  have hkept : ∀ r, r ∈ (completePass (visitStamp s)).ip.retiring ↔
      r ∈ s.ip.retiring ∧ r.eligibleAfter ≠ s.ss.pass := by
    intro r
    change r ∈ (s.ip.retiring.filter fun r => r.eligibleAfter != s.ss.pass) ↔ _
    rw [List.mem_filter, bne_iff_ne]
  refine ⟨hplaced', hwf, fun p hp => ?_, ?_⟩
  · rcases List.mem_append.mp (howned p hp) with hr | hr
    · obtain ⟨r, hr, hid⟩ := List.mem_map.mp hr
      refine List.mem_append_left _ (List.mem_map.mpr ⟨r, (hkept r).mpr ⟨hr, fun he => ?_⟩, hid⟩)
      exact hnone r hr he p hp hid.symm
    · exact List.mem_append_right _ hr
  · by_cases hk : (s.ip.retiring.filter fun r => r.eligibleAfter != s.ss.pass) = []
    · have hr : (completePass (visitStamp s)).ip.retiring = [] := hk
      rw [passLawful, hr]
      exact ⟨fun _ => rfl, nofun, nofun⟩
    · have hss : (completePass (visitStamp s)).ss = ⟨true, 0, s.ss.pass + 1, s.now⟩ := if_neg hk
      rw [passLawful, hss]
      refine ⟨nofun, fun r hr => .inl ?_, fun _ _ _ _ _ _ => Nat.zero_le _⟩
      obtain ⟨hr, hne⟩ := (hkept r).mp hr
      exact (hwait r hr).resolve_left hne

/-- Settles O54: small changes clear stamps or set them to identifiers of the stack, and identifiers retire for a pass
that has still to visit every stamp; a scrubber visit, taken on its own, finds every stamp in the table. -/
theorem stampsStayAccounted : Obligations.StampsStayAccounted := by
  intro s t hplaced htables hacc hr
  obtain ⟨howned, hpass⟩ := stampsAccounted_iff.mp hacc
  have hstamps := htables.1
  simp only [stampsWf, Bool.and_eq_true, List.all_eq_true, decide_eq_true_eq] at hstamps
  have hs : stampsLawful s := ⟨hplaced, hstamps.1, howned, hpass⟩
  suffices ht : stampsLawful t from stampsAccounted_iff.mpr ht.2.2
  exact step_keeps_from stampsLawful_change (fun _ _ hp => stampsLawful_visit hp hs)
    (fun _ _ hp => stampsLawful_lastVisit hp (fun p hp => (hstamps.2 p hp).1) hs)
    (fun h => (loseDownstream_path _).keeps stampsLawful_change h) (fun _ => hs) hr

end Sys2Proof.Machine
end


section
/-! PROOFS. The stores, the region table and the configuration items (01 R1, R3, R4, R13; 03 R36; 04 R63; 10 R157). -/

namespace Sys2Proof.Machine

open Sys2Proof.Safety

/-! ## Stores with keys below a bound -/

/-- A store in canonical form whose keys lie below a bound. -/
def keysBelow {α : Type} (n : Nat) (t : Table α) : Prop := tableWf t = true ∧ ∀ p ∈ t, p.1 < n

section
variable {α β : Type} {n k : Nat} {t : Table α}

theorem keysBelow_nil : keysBelow n ([] : Table α) := ⟨rfl, nofun⟩

theorem keysBelow_set (h : keysBelow n t) (hk : k < n) (v : α) : keysBelow n (tableSet t k v) :=
  ⟨tableWf_set t k v h.1, tableSet_all h.2 hk⟩

theorem keysBelow_erase (h : keysBelow n t) (k : Nat) : keysBelow n (tableErase t k) :=
  ⟨tableWf_erase t k h.1, tableErase_all h.2⟩

theorem keysBelow_update (h : keysBelow n t) (hk : k < n) (g : α → α) : keysBelow n (tableUpdate t k g) := by
  unfold tableUpdate
  split
  · exact keysBelow_set h hk _
  · exact h

theorem keysBelow_map (h : keysBelow n t) (g : Nat × α → β) : keysBelow n (t.map fun p => (p.1, g p)) := by
  refine ⟨tableWf_map t g h.1, fun q hq => ?_⟩
  obtain ⟨p, hp, rfl⟩ := List.mem_map.mp hq
  exact h.2 p hp

end

/-- The line hazard table in canonical form, with no empty chain (04 R63). -/
def chainsWf (t : Table (List Step)) : Prop := tableWf t = true ∧ ∀ p ∈ t, p.1 < Config.lineSpace ∧ p.2 ≠ []

theorem chainsWf_putChain {t : Table (List Step)} (h : chainsWf t) (line : Line) (c : List Step) :
    chainsWf (putChain t line c) :=
  ⟨tableWf_putChain t line c h.1, putChain_all h.2 fun hc => ⟨line.isLt, hc⟩⟩

theorem orphanChain_some {s : State} {p q : Nat × List Step} (h : orphanChain s p = some q) : q.1 = p.1 ∧ q.2 ≠ [] := by
  unfold orphanChain at h
  split at h
  · cases h
  · cases h; exact ⟨rfl, ‹_›⟩

theorem chainsWf_orphan {t : Table (List Step)} (h : chainsWf t) (s : State) : chainsWf (t.filterMap (orphanChain s)) := by
  refine ⟨tableWf_filterMap t _ (fun p q hq => (orphanChain_some hq).1) h.1, fun q hq => ?_⟩
  obtain ⟨p, hp, hpq⟩ := List.mem_filterMap.mp hq
  exact ⟨(orphanChain_some hpq).1 ▸ (h.2 p hp).1, (orphanChain_some hpq).2⟩

/-- The tables of the requests in work: contexts, chains, tracker and quarantine. -/
def workTablesLawful (s : State) : Prop :=
  keysBelow 32 s.contexts ∧ chainsWf s.lht ∧ keysBelow 64 s.dp.tracker ∧ keysBelow 64 s.dp.quarantine

section
variable {s t : State}

theorem workTablesLawful_work (h : WorkChange s t) (hs : workTablesLawful s) : workTablesLawful t := by
  obtain ⟨hcontexts, hchains, htracker, hquarantine⟩ := hs
  cases h with
  | @issue g => exact ⟨hcontexts, hchains, keysBelow_set htracker g.isLt _, hquarantine⟩
  | removeEntry g => exact ⟨hcontexts, hchains, keysBelow_erase htracker _, hquarantine⟩
  | @timeOut g => exact ⟨hcontexts, hchains, keysBelow_erase htracker _, keysBelow_set hquarantine g.isLt _⟩
  | endQuarantine g => exact ⟨hcontexts, hchains, htracker, keysBelow_erase hquarantine _⟩
  | clearQuarantine => exact ⟨hcontexts, hchains, htracker, keysBelow_nil⟩
  | @createContext u => exact ⟨keysBelow_set hcontexts u.isLt _, hchains, htracker, hquarantine⟩
  | updateContext u => exact ⟨keysBelow_update hcontexts u.isLt _, hchains, htracker, hquarantine⟩
  | discardContext =>
    exact ⟨keysBelow_erase hcontexts _, chainsWf_putChain hchains _ _, htracker, hquarantine⟩
  | joinChain => exact ⟨hcontexts, chainsWf_putChain hchains _ _, htracker, hquarantine⟩
  | leaveChain => exact ⟨hcontexts, chainsWf_putChain hchains _ _, htracker, hquarantine⟩
  | placeStep => exact ⟨hcontexts, chainsWf_putChain hchains _ _, htracker, hquarantine⟩
  | orphanAll =>
    exact ⟨keysBelow_nil, chainsWf_orphan hchains s, keysBelow_map htracker fun p => orphanEntry s p.2, hquarantine⟩
  | _ => exact ⟨hcontexts, hchains, htracker, hquarantine⟩

/-! ## Stamps and records -/

theorem releaseInnermost_stamps (eligible : BitVec 16) (s : State) :
    (releaseInnermost eligible s).stamps = s.stamps := by
  unfold releaseInnermost
  cases s.ec.stack <;> rfl

theorem recordsWf_release (eligible : BitVec 16) (h : recordsWf s.jr.records = true) :
    recordsWf (releaseInnermost eligible s).jr.records = true := by
  unfold releaseInnermost
  cases s.ec.stack with
  | nil => exact h
  | cons e rest =>
    change recordsWf (if rest = [] then releaseTail e s.jr else releaseHead e s.jr).records = true
    split <;> exact recordsWf_filter _ _ h

theorem recordsWf_epoch (h : EpochChange s t) (hs : recordsWf s.jr.records = true) :
    recordsWf t.jr.records = true := by
  cases h with
  | reserve => exact recordsWf_set _ _ _ hs
  | updateRecord => exact recordsWf_update _ _ _ hs
  | dropVoid => exact recordsWf_erase _ _ hs
  | dropWritten => exact recordsWf_erase _ _ hs
  | release => exact recordsWf_release _ hs
  | releaseAll => exact releaseAll_keeps (P := fun u => recordsWf u.jr.records = true) (recordsWf_release _) hs
  | _ => exact hs

theorem stampsWf_epoch (h : EpochChange s t) (hr : regionsLawful s) (hs : stampsWf s.stamps = true) :
    stampsWf t.stamps = true := by
  cases h with
  | reserve hn => exact stampsWf_set _ _ _ (stampIndex_le hr (captureNeed_capture hn).1) hs
  | revertStamp line old =>
    rw [revertStamp]
    split
    · exact stampsWf_set _ _ _ (stampIndex_le hr ‹_›) hs
    · exact hs
  | release => rw [releaseInnermost_stamps]; exact hs
  | releaseAll =>
    refine releaseAll_keeps (P := fun u => stampsWf u.stamps = true) (fun h => ?_) hs
    rwa [releaseInnermost_stamps]
  | _ => exact hs

/-! ## The region table -/

/-- The region table's laws (01 R1, R3, R4). -/
def regionTableLawful (s : State) : Prop := regionsLawful s ∧ regionsApart s

theorem setRegion_same (k : Fin 8) (r : Region) (s : State) : (setRegion k r s).regions[k] = r := by
  simp [setRegion]

theorem setRegion_other {j k : Fin 8} (h : j ≠ k) (r : Region) (s : State) :
    (setRegion k r s).regions[j] = s.regions[j] := by
  simp [setRegion, Fin.val_ne_of_ne h.symm]

/-- A slot written with a lawful region that shares no line with another slot's. -/
theorem regionTableLawful_set {k : Fin 8} {r : Region} (hs : regionTableLawful s)
    (hr : r.installed = true → 1 ≤ r.length ∧ r.length ≤ Config.partitionSize ∧
      r.base.toNat + r.length ≤ Config.lineSpace)
    (hapart : ∀ j, j ≠ k → ∀ line, ¬ (s.regions[j].covers line = true ∧ r.covers line = true)) :
    regionTableLawful (setRegion k r s) := by
  obtain ⟨hlawful, happart⟩ := hs
  refine ⟨fun j => ?_, fun i j hij line => ?_⟩
  · by_cases hj : j = k
    · rw [hj, setRegion_same]; exact hr
    · rw [setRegion_other hj]; exact hlawful j
  · by_cases hi : i = k
    · have hj : j ≠ k := fun h => hij (hi.trans h.symm)
      rw [hi, setRegion_same, setRegion_other hj]
      exact fun h => hapart j hj line ⟨h.2, h.1⟩
    · by_cases hj : j = k
      · rw [hj, setRegion_same, setRegion_other hi]; exact hapart i hi line
      · rw [setRegion_other hi, setRegion_other hj]; exact happart i j hij line

/-- A slot written with a region that stands where the old one stood. -/
theorem regionTableLawful_keep {k : Fin 8} {r : Region} (hs : regionTableLawful s)
    (hi : r.installed = s.regions[k].installed) (hb : r.base = s.regions[k].base)
    (hl : r.length = s.regions[k].length) : regionTableLawful (setRegion k r s) := by
  refine regionTableLawful_set hs ?_ fun j hj line => ?_
  · rw [hi, hb, hl]; exact hs.1 k
  · have hc : r.covers line = s.regions[k].covers line := by simp only [Region.covers, hi, hb, hl]
    rw [hc]; exact hs.2 j k hj line

theorem installRefusal_none_apart {k : Fin 8} {base length : Nat} (h : installRefusal s k base length = none) :
    ¬ ((List.finRange 8).any fun j =>
      s.regions[j].installed && stretchesMeet base length s.regions[j].base.toNat s.regions[j].length) = true := by
  intro hmeet
  unfold installRefusal at h
  rw [if_pos hmeet] at h
  split at h
  · cases h
  · split at h <;> cases h

theorem regionTableLawful_region (h : RegionChange s t) (hs : regionTableLawful s) : regionTableLawful t := by
  cases h with
  | @install k base length m hok hfree =>
    obtain ⟨-, hbase, hlen, hmax, hend⟩ := (regionArgumentsOk_iff _ _ _).mp hok
    have hnat : (BitVec.ofNat 34 base).toNat = base := Nat.mod_eq_of_lt hbase
    have hnone := mt (any_stretchesMeet_iff hs.1 (Nat.one_le_iff_ne_zero.mpr hlen) hend).mpr
      (installRefusal_none_apart hfree)
    refine regionTableLawful_set hs (fun _ => ⟨Nat.one_le_iff_ne_zero.mpr hlen, hmax, hnat.symm ▸ hend⟩) ?_
    rintro j - line ⟨hj, hline⟩
    simp only [Region.covers, hnat, Bool.true_and, Bool.and_eq_true, decide_eq_true_eq] at hline
    exact hnone ⟨j, line, hj, hline⟩
  | clear k => exact regionTableLawful_set hs nofun fun j _ line h => by simp [Region.covers, Region.clear] at h
  | setMode => exact regionTableLawful_keep hs rfl rfl rfl
  | count => exact regionTableLawful_keep hs rfl rfl rfl

/-! ## The configuration items -/

theorem configLawful_writeItem {item value : Nat} {cfg : ConfigItems} (hc : writeItem s.cfg item value = some cfg)
    (ht : t.cfg = cfg) (hs : configLawful s) : configLawful t := by
  obtain ⟨hhold, hlo, hhi, hwater⟩ := hs
  rw [configLawful, ht]
  unfold writeItem at hc
  split at hc
  · split at hc <;> cases hc <;> exact ⟨hhold, hlo, hhi, hwater⟩
  · split at hc
    · cases hc; exact ⟨‹_›, hlo, hhi, hwater⟩
    · cases hc
  · split at hc
    · rename_i hv
      cases hc; exact ⟨hhold, Nat.one_le_iff_ne_zero.mpr hv.1, hv.2, hwater⟩
    · cases hc
  · split at hc
    · cases hc; exact ⟨hhold, hlo, hhi, ‹_›⟩
    · cases hc
  · split at hc <;> cases hc; exact ⟨hhold, hlo, hhi, hwater⟩
  · split at hc <;> cases hc; exact ⟨hhold, hlo, hhi, hwater⟩
  · cases hc

end

/-! ## Every step -/

/-- The laws of the stores, the region table and the configuration items together. -/
def storesLawful (s : State) : Prop :=
  stampsWf s.stamps = true ∧ recordsWf s.jr.records = true ∧ workTablesLawful s ∧ regionTableLawful s ∧ configLawful s

theorem storesLawful_iff {s : State} :
    storesLawful s ↔ tablesLawful s ∧ regionsLawful s ∧ regionsApart s ∧ configLawful s := by
  simp only [storesLawful, tablesLawful, workTablesLawful, regionTableLawful, keysBelow, chainsWf, and_assoc]

theorem applyItem_cfg (item : Nat) (cfg : ConfigItems) (s : State) : (applyItem item cfg s).cfg = cfg := by
  rw [applyItem_frame]

theorem applyItem_records (item : Nat) (cfg : ConfigItems) (s : State) :
    (applyItem item cfg s).jr.records = s.jr.records := by
  unfold applyItem
  split
  · rfl
  · split <;> rfl

theorem regionTableLawful_reset : regionTableLawful State.reset := by
  have hclear : ∀ k : Fin 8, State.reset.regions[k] = .clear := by decide
  refine ⟨fun k h => ?_, fun j k _ line h => ?_⟩
  · rw [hclear] at h; cases h
  · rw [hclear] at h; simp [Region.covers, Region.clear] at h

theorem storesLawful_change {s t : State} (h : Change s t) (hs : storesLawful s) : storesLawful t := by
  obtain ⟨hstamps, hrecords, hwork, hregions, hconfig⟩ := hs
  cases h with
  | outside => exact ⟨hstamps, hrecords, hwork, hregions, hconfig⟩
  | events h => rw [h.frame]; exact ⟨hstamps, hrecords, hwork, hregions, hconfig⟩
  | popEvent => exact ⟨hstamps, hrecords, hwork, hregions, hconfig⟩
  | @config item _ cfg hc =>
    have hcfg : configLawful (applyItem item cfg s) := configLawful_writeItem hc (applyItem_cfg ..) hconfig
    refine ⟨?_, ?_, ?_, ?_, hcfg⟩
    · rw [applyItem_frame]; exact hstamps
    · rw [applyItem_records]; exact hrecords
    · rw [applyItem_frame]; exact hwork
    · rw [applyItem_frame]; exact hregions
  | region h =>
    have hregions' := regionTableLawful_region h hregions
    rw [h.frame] at hregions' ⊢
    exact ⟨hstamps, hrecords, hwork, hregions', hconfig⟩
  | work h =>
    have hwork' := workTablesLawful_work h hwork
    rw [h.frame] at hwork' ⊢
    exact ⟨hstamps, hrecords, hwork', hregions, hconfig⟩
  | epoch h =>
    have hstamps' := stampsWf_epoch h hregions.1 hstamps
    have hrecords' := recordsWf_epoch h hrecords
    rw [h.frame] at hstamps' hrecords' ⊢
    exact ⟨hstamps', hrecords', hwork, hregions, hconfig⟩
  | reset =>
    exact ⟨rfl, rfl, ⟨keysBelow_nil, ⟨rfl, nofun⟩, keysBelow_nil, keysBelow_nil⟩, regionTableLawful_reset,
      show configLawful State.reset by unfold configLawful; decide⟩

theorem storesLawful_visitStamp {s : State} (hs : storesLawful s) (hpos : s.ss.position ≤ Config.lastStamp) :
    storesLawful (visitStamp s) := by
  obtain ⟨hstamps, hrest⟩ := hs
  refine ⟨?_, hrest⟩
  rcases visitStamp_cases s with hv | hv <;> rw [hv]
  · exact hstamps
  · exact stampsWf_set s.stamps s.ss.position.toNat 0 hpos hstamps

theorem position_le (p : BitVec 18) : p ≤ Config.lastStamp := by
  have : p.toNat < 2 ^ 18 := p.isLt
  rw [BitVec.le_def, show Config.lastStamp.toNat = 262143 from rfl]
  omega

/-- Settles O57: every small change keeps the laws; a visit writes a stamp of the table, and the end of a pass changes
entries under their own keys. -/
theorem tablesStayLawful : Obligations.TablesStayLawful := by
  intro s t htables hregions hapart hconfig hr
  refine storesLawful_iff.mp (step_keeps (P := storesLawful) storesLawful_change
    (fun _ _ h => storesLawful_visitStamp h (position_le _)) (fun _ _ h => ?_) (fun h => h) (fun _ h => h)
    (storesLawful_iff.mpr ⟨htables, hregions, hapart, hconfig⟩) hr)
  obtain ⟨hstamps, hrecords, ⟨hcontexts, hchains, htracker, hquarantine⟩, hrest⟩ :=
    storesLawful_visitStamp h (position_le _)
  exact ⟨hstamps, hrecords, ⟨keysBelow_map hcontexts _, hchains, keysBelow_map htracker _, hquarantine⟩, hrest⟩

end Sys2Proof.Machine
end


section
/-! PROOFS. The journal ring: the runs, the used count, the low-armed flag and the records in the used slots
(03 R36, R37, R39, R47). -/

namespace Sys2Proof.Machine

open Sys2Proof.Safety

/-! ## The ring of a journal under a stack -/

/-- The records of the runs of a stack. -/
def runTotal (l : List Epoch) : Nat := (l.map (·.runLength)).sum

/-- A ring whose used stretch is `n` slots long (03 R36). -/
def ringShape (j : Journal) (n : Nat) : Prop :=
  n ≤ 2048 ∧ j.head = j.tail + BitVec.ofNat 11 n ∧ (j.full = true ↔ n = 2048)

/-- The ring law and the law of the records, of a journal and a stack. -/
def ringHolds (j : Journal) (l : List Epoch) : Prop :=
  runsFrom j.tail l = some j.head ∧ ringShape j (runTotal l) ∧ tableWf j.records = true ∧
    ∀ slot : Slot, (tableGet j.records slot.toNat).isSome = true ↔ (slot - j.tail).toNat < runTotal l

theorem runTotal_cons (e : Epoch) (l : List Epoch) : runTotal (e :: l) = e.runLength + runTotal l := by
  simp [runTotal]

theorem runsFrom_cons {tail p : Slot} {e : Epoch} {l : List Epoch} : runsFrom tail (e :: l) = some p ↔
    runsFrom tail l = some e.runStart ∧ p = e.runStart + BitVec.ofNat 11 e.runLength := by
  rw [runsFrom]
  cases h : runsFrom tail l with
  | none => simp
  | some q =>
    simp only [Option.ite_none_right_eq_some, Option.some_inj]
    constructor
    · rintro ⟨rfl, rfl⟩; exact ⟨rfl, rfl⟩
    · rintro ⟨rfl, rfl⟩; exact ⟨rfl, rfl⟩

/-- The last run ends as many slots past the tail as the runs hold records. -/
theorem runsFrom_end {tail : Slot} {l : List Epoch} : ∀ {p : Slot}, runsFrom tail l = some p →
    p = tail + BitVec.ofNat 11 (runTotal l) := by
  induction l with
  | nil => intro p h; cases h; simp [runTotal]
  | cons e r ih =>
    intro p h
    obtain ⟨hr, rfl⟩ := runsFrom_cons.mp h
    rw [ih hr, runTotal_cons, Nat.add_comm, BitVec.ofNat_add, BitVec.add_assoc]

/-! ## Distances in the ring of 2,048 slots -/

theorem ring_add_sub (tail x : Slot) : tail + x - tail = x := by rw [BitVec.add_comm, BitVec.add_sub_cancel]

theorem ring_offset {n : Nat} (tail slot : Slot) (hn : n < 2048) :
    slot = tail + BitVec.ofNat 11 n ↔ (slot - tail).toNat = n := by
  constructor
  · rintro rfl
    rw [ring_add_sub, BitVec.toNat_ofNat, Nat.mod_eq_of_lt hn]
  · rintro rfl
    rw [BitVec.ofNat_toNat, BitVec.setWidth_eq, BitVec.add_comm, BitVec.sub_add_cancel]

theorem ring_succ (n : Nat) : BitVec.ofNat 11 (n + 1) = BitVec.ofNat 11 n + 1 := BitVec.ofNat_add n 1

/-- One slot on from a stretch is its start exactly where the stretch takes every slot but one. -/
theorem ring_closes {n : Nat} (tail : Slot) (hn : n < 2048) :
    tail + BitVec.ofNat 11 n + 1 = tail ↔ n + 1 = 2048 := by
  rw [BitVec.add_assoc, ← ring_succ, add_eq_left, ← BitVec.toNat_inj, BitVec.toNat_ofNat, show (0 : Slot).toNat = 0 from rfl]
  omega

/-- A stretch that begins `q` slots past the tail, by distances from the tail. -/
theorem ring_stretch {q length : Nat} (tail slot : Slot) (h : q + length ≤ 2048) :
    (slot - (tail + BitVec.ofNat 11 q)).toNat < length ↔
      q ≤ (slot - tail).toNat ∧ (slot - tail).toNat < q + length := by
  rw [sub_add_eq_sub_sub]
  have hx := (slot - tail).isLt
  generalize slot - tail = x at hx ⊢
  rw [BitVec.toNat_sub, BitVec.toNat_ofNat]
  omega

section
variable {j : Journal} {n m : Nat}

theorem usedCount_of_shape (h : ringShape j n) : usedCount j = n := by
  obtain ⟨hn, hhead, hfull⟩ := h
  unfold usedCount
  split
  · exact (hfull.mp ‹_›).symm
  · have hlt : n ≠ 2048 := fun h => ‹¬ _› (hfull.mpr h)
    rw [hhead, ring_add_sub, BitVec.toNat_ofNat, Nat.mod_eq_of_lt (lt_of_le_of_ne hn hlt)]

theorem shape_of_usedCount (hhead : j.head = j.tail + BitVec.ofNat 11 (usedCount j)) : ringShape j (usedCount j) := by
  refine ⟨usedCount_le j, hhead, fun h => by rw [usedCount, if_pos h], fun h => ?_⟩
  by_contra hf
  have hlt := (j.head - j.tail).isLt
  rw [usedCount, if_neg hf] at h
  omega

theorem ringHolds_iff {s : State} (hw : tableWf s.jr.records = true) :
    ringHolds s.jr s.ec.stack ↔ ringLawful s ∧ recordsPlaced s := by
  constructor
  · rintro ⟨hruns, hshape, -, hplaced⟩
    refine ⟨⟨hruns, usedCount_of_shape hshape⟩, ?_⟩
    rwa [recordsPlaced, usedCount_of_shape hshape]
  · rintro ⟨⟨hruns, hused⟩, hplaced⟩
    have htotal : usedCount s.jr = runTotal s.ec.stack := hused
    have hshape := shape_of_usedCount (htotal ▸ runsFrom_end hruns)
    rw [recordsPlaced, htotal] at hplaced
    exact ⟨hruns, htotal ▸ hshape, hw, hplaced⟩

/-! ## What the journal's operations do to the ring -/

section
variable {l : List Epoch} {e e' p : Epoch} {k : Nat}

/-- Only the starts and the lengths of the runs count. -/
theorem ringHolds_replace (h : ringHolds j (e :: l)) (hs : e'.runStart = e.runStart)
    (hl : e'.runLength = e.runLength) : ringHolds j (e' :: l) := by
  obtain ⟨hruns, hshape, hw, hplaced⟩ := h
  rw [runTotal_cons] at hshape hplaced
  refine ⟨?_, ?_, hw, ?_⟩
  · rwa [runsFrom_cons, hs, hl, ← runsFrom_cons]
  · rwa [runTotal_cons, hl]
  · rwa [runTotal_cons, hl]

/-- A new epoch's run is empty and starts at the head (02 R31). -/
theorem ringHolds_push (h : ringHolds j l) (hs : e.runStart = j.head) (hl : e.runLength = 0) :
    ringHolds j (e :: l) := by
  obtain ⟨hruns, hshape, hw, hplaced⟩ := h
  have ht : runTotal (e :: l) = runTotal l := by rw [runTotal_cons, hl, Nat.zero_add]
  refine ⟨runsFrom_cons.mpr ⟨hs ▸ hruns, ?_⟩, ht ▸ hshape, hw, ht ▸ hplaced⟩
  rw [hl, hs]; simp

/-- An epoch with an empty run gone. -/
theorem ringHolds_pop (h : ringHolds j (e :: l)) (hl : e.runLength = 0) : ringHolds j l := by
  obtain ⟨hruns, hshape, hw, hplaced⟩ := h
  have ht : runTotal (e :: l) = runTotal l := by rw [runTotal_cons, hl, Nat.zero_add]
  obtain ⟨hrest, hhead⟩ := runsFrom_cons.mp hruns
  rw [hl] at hhead
  refine ⟨?_, ht ▸ hshape, hw, ht ▸ hplaced⟩
  rw [hrest, hhead]; simp

/-- A child's run joined to its parent's (05 R86). -/
theorem ringHolds_merge (h : ringHolds j (e :: p :: l)) (hs : e'.runStart = p.runStart)
    (hl : e'.runLength = p.runLength + e.runLength) : ringHolds j (e' :: l) := by
  obtain ⟨hruns, hshape, hw, hplaced⟩ := h
  have ht : runTotal (e :: p :: l) = runTotal (e' :: l) := by simp only [runTotal_cons, hl]; omega
  obtain ⟨hrest, hhead⟩ := runsFrom_cons.mp hruns
  obtain ⟨hrest, hstart⟩ := runsFrom_cons.mp hrest
  refine ⟨runsFrom_cons.mpr ⟨hs ▸ hrest, ?_⟩, ht ▸ hshape, hw, ht ▸ hplaced⟩
  rw [hhead, hstart, hs, hl, BitVec.ofNat_add, BitVec.add_assoc]

/-- A record reserved at the head (03 R40). -/
theorem ringHolds_append (h : ringHolds j (e :: l)) (hfree : 1 ≤ freeCount j) (r : Record)
    (hs : e'.runStart = e.runStart) (hl : e'.runLength = e.runLength + 1) : ringHolds (appendRecord r j) (e' :: l) := by
  obtain ⟨hruns, hshape, hw, hplaced⟩ := h
  have hused := usedCount_of_shape hshape
  have hlt : runTotal (e :: l) < 2048 := by have := usedCount_add_freeCount j; omega
  have ht : runTotal (e' :: l) = runTotal (e :: l) + 1 := by simp only [runTotal_cons, hl]; omega
  obtain ⟨hn, hhead, -⟩ := hshape
  obtain ⟨hrest, hend⟩ := runsFrom_cons.mp hruns
  refine ⟨runsFrom_cons.mpr ⟨hs ▸ hrest, ?_⟩, ⟨by omega, ?_, ?_⟩, tableWf_set _ _ _ hw, fun slot => ?_⟩
  · change j.head + 1 = _
    rw [hend, hs, hl, ring_succ, BitVec.add_assoc]
  · change j.head + 1 = j.tail + _
    rw [hhead, ht, ring_succ, BitVec.add_assoc]
  · change (j.head + 1 == j.tail) = true ↔ _
    rw [beq_iff_eq, ht, hhead, ring_closes _ hlt]
  · change (tableGet (tableSet j.records j.head.toNat r) slot.toNat).isSome = true ↔ (slot - j.tail).toNat < _
    rw [tableGet_set, ht]
    by_cases hslot : slot = j.head
    · have hoff := (ring_offset j.tail slot hlt).mp (hslot.trans hhead)
      rw [if_pos (by rw [hslot])]
      simp only [Option.isSome_some, true_iff]
      omega
    · have hoff : (slot - j.tail).toNat ≠ runTotal (e :: l) := fun h =>
        hslot (((ring_offset j.tail slot hlt).mpr h).trans hhead.symm)
      rw [if_neg (fun h => hslot (BitVec.eq_of_toNat_eq h)), hplaced slot]
      omega

/-- The runs and the stretch once the newest record is removed (03 R44). -/
theorem runs_drop (hruns : runsFrom j.tail (e :: l) = some j.head) (hshape : ringShape j (runTotal (e :: l)))
    (hrun : 1 ≤ e.runLength) (records : Table Record) (hs : e'.runStart = e.runStart)
    (hl : e'.runLength = e.runLength - 1) :
    runsFrom j.tail (e' :: l) = some (j.head - 1) ∧
      ringShape { j with head := j.head - 1, full := false, records := records } (runTotal (e' :: l)) := by
  obtain ⟨hn, hhead, -⟩ := hshape
  have ht : runTotal (e :: l) = runTotal (e' :: l) + 1 := by simp only [runTotal_cons, hl]; omega
  have hlen : e.runLength = e'.runLength + 1 := by omega
  obtain ⟨hrest, hend⟩ := runsFrom_cons.mp hruns
  have hlast : j.head - 1 = j.tail + BitVec.ofNat 11 (runTotal (e' :: l)) := by
    rw [hhead, ht, ring_succ, ← BitVec.add_assoc, BitVec.add_sub_cancel]
  refine ⟨runsFrom_cons.mpr ⟨hs ▸ hrest, ?_⟩, by omega, hlast, nofun, fun h => by omega⟩
  rw [hend, hs, hlen, ring_succ, ← BitVec.add_assoc, BitVec.add_sub_cancel]

/-- The newest record removed (03 R44). -/
theorem ringHolds_drop (h : ringHolds j (e :: l)) (hrun : 1 ≤ e.runLength) (hs : e'.runStart = e.runStart)
    (hl : e'.runLength = e.runLength - 1) :
    ringHolds { j with head := j.head - 1, full := false, records := tableErase j.records (j.head - 1).toNat }
      (e' :: l) := by
  obtain ⟨hruns, hshape, hw, hplaced⟩ := h
  obtain ⟨hruns', hshape'⟩ := runs_drop hruns hshape hrun (tableErase j.records (j.head - 1).toNat) hs hl
  have ht : runTotal (e :: l) = runTotal (e' :: l) + 1 := by simp only [runTotal_cons, hl]; omega
  have hn : runTotal (e' :: l) < 2048 := by have := hshape.1; omega
  have hlast : j.head - 1 = j.tail + BitVec.ofNat 11 (runTotal (e' :: l)) := hshape'.2.1
  refine ⟨hruns', hshape', tableWf_erase _ _ hw, fun slot => ?_⟩
  change (tableGet (tableErase j.records (j.head - 1).toNat) slot.toNat).isSome = true ↔ (slot - j.tail).toNat < _
  by_cases hslot : slot = j.head - 1
  · have hoff := (ring_offset j.tail slot hn).mp (hslot.trans hlast)
    rw [hslot, tableGet_erase_same _ _ hw, ← hslot]
    simp only [Option.isSome_none, Bool.false_eq_true, false_iff]
    omega
  · have hoff : (slot - j.tail).toNat ≠ runTotal (e' :: l) := fun h =>
      hslot (((ring_offset j.tail slot hn).mpr h).trans hlast.symm)
    rw [tableGet_erase_other _ (fun h => hslot (BitVec.eq_of_toNat_eq h)), hplaced slot]
    omega

/-- Entries kept by their keys. -/
theorem tableGet_filter_key {α : Type} (t : Table α) (g : Nat → Bool) (k : Nat) :
    tableGet (t.filter fun p => g p.1) k = if g k then tableGet t k else none := by
  induction t with
  | nil => simp [tableGet]
  | cons q r ih =>
    obtain ⟨k', v⟩ := q
    by_cases hk : k = k'
    · subst hk
      cases hg : g k <;> simp [hg, tableGet, ih]
    · cases hg : g k' <;> simp [hg, tableGet, hk, ih]

theorem isSome_withoutRun (start : Slot) (length : Nat) (records : Table Record) (slot : Slot) :
    (tableGet (withoutRun start length records) slot.toNat).isSome = true ↔
      ¬ (slot - start).toNat < length ∧ (tableGet records slot.toNat).isSome = true := by
  rw [withoutRun, tableGet_filter_key records fun k => !inRun start length (BitVec.ofNat 11 k)]
  rw [BitVec.ofNat_toNat, BitVec.setWidth_eq, inRun]
  by_cases h : (slot - start).toNat < length
  · rw [decide_eq_true h]; simp only [h, not_true_eq_false, false_and, iff_false]; exact nofun
  · rw [decide_eq_false h]; simp only [h, not_false_eq_true, true_and]; rfl

/-- The runs and the stretch once the innermost run is released from the head (03 R43). -/
theorem runs_releaseHead (hruns : runsFrom j.tail (e :: l) = some j.head) (hshape : ringShape j (runTotal (e :: l))) :
    runsFrom j.tail l = some (releaseHead e j).head ∧ ringShape (releaseHead e j) (runTotal l) := by
  obtain ⟨hn, hhead, hfull⟩ := hshape
  obtain ⟨hrest, hend⟩ := runsFrom_cons.mp hruns
  have hhead' : j.head - BitVec.ofNat 11 e.runLength = e.runStart := by rw [hend, BitVec.add_sub_cancel]
  rw [runTotal_cons] at hn hfull
  refine ⟨?_, by omega, ?_, ?_⟩
  · rw [releaseHead, hhead']; exact hrest
  · rw [releaseHead, hhead']; exact runsFrom_end hrest
  · rw [releaseHead, Bool.and_eq_true, hfull, beq_iff_eq]
    omega

/-- The innermost run released from the head (03 R43). -/
theorem ringHolds_releaseHead (h : ringHolds j (e :: l)) : ringHolds (releaseHead e j) l := by
  obtain ⟨hruns, hshape, hw, hplaced⟩ := h
  obtain ⟨hruns', hshape'⟩ := runs_releaseHead hruns hshape
  refine ⟨hruns', hshape', tableWf_filter _ _ hw, fun slot => ?_⟩
  change (tableGet (withoutRun e.runStart e.runLength j.records) slot.toNat).isSome = true ↔
    (slot - j.tail).toNat < runTotal l
  have hn := hshape.1
  rw [runTotal_cons] at hn
  rw [isSome_withoutRun, hplaced, runTotal_cons, runsFrom_end (runsFrom_cons.mp hruns).1, ring_stretch _ _ (by omega)]
  omega

/-- The stretch once the only run is released from the tail (03 R43). -/
theorem runs_releaseTail (hshape : ringShape j (runTotal [e])) :
    (releaseTail e j).tail = j.head ∧ ringShape (releaseTail e j) 0 := by
  obtain ⟨hn, hhead, hfull⟩ := hshape
  have ht : runTotal [e] = e.runLength := by simp [runTotal]
  rw [ht] at hn hhead hfull
  refine ⟨hhead.symm, Nat.zero_le _, ?_, ?_⟩
  · change j.head = j.tail + BitVec.ofNat 11 e.runLength + BitVec.ofNat 11 0
    rw [hhead]; simp
  · change (j.full && e.runLength == 0) = true ↔ (0 : Nat) = 2048
    rw [Bool.and_eq_true, hfull, beq_iff_eq]
    omega

/-- The only run released from the tail (03 R43). -/
theorem ringHolds_releaseTail (h : ringHolds j [e]) : ringHolds (releaseTail e j) [] := by
  obtain ⟨hruns, hshape, hw, hplaced⟩ := h
  obtain ⟨htail, hshape'⟩ := runs_releaseTail hshape
  have hstart : e.runStart = j.tail := (Option.some_inj.mp (runsFrom_cons.mp hruns).1).symm
  have ht : runTotal [e] = e.runLength := by simp [runTotal]
  refine ⟨congrArg some htail, hshape', tableWf_filter _ _ hw, fun slot => ?_⟩
  change (tableGet (withoutRun e.runStart e.runLength j.records) slot.toNat).isSome = true ↔ _ < (0 : Nat)
  rw [isSome_withoutRun, hplaced, ht, hstart]
  exact ⟨fun h => absurd h.2 h.1, nofun⟩

end
end

/-! ## Every step -/

/-- The laws of the ring and of the watermark. -/
def journalLawful (s : State) : Prop := ringHolds s.jr s.ec.stack ∧ waterLawful s

section
variable {s t : State}

theorem waterLawful_armWater (s : State) : waterLawful (armWater s) := decide_eq_true_iff

/-- Only the ring, the watermark and the runs count. -/
theorem journalLawful_congr (h : journalLawful s) (hjr : t.jr = s.jr) (hwater : t.cfg.lowWater = s.cfg.lowWater)
    (hstack : ringHolds s.jr s.ec.stack → ringHolds s.jr t.ec.stack) : journalLawful t := by
  refine ⟨hjr ▸ hstack h.1, ?_⟩
  rw [waterLawful, hjr, hwater]
  exact h.2

theorem ringHolds_mapInnermost {j : Journal} {ec : EpochController} {g : Epoch → Epoch}
    (hs : ∀ e, (g e).runStart = e.runStart) (hl : ∀ e, (g e).runLength = e.runLength) (h : ringHolds j ec.stack) :
    ringHolds j (mapInnermost g ec).stack := by
  cases hstack : ec.stack with
  | nil => rw [mapInnermost_nil hstack, ← hstack]; exact h
  | cons e rest => rw [mapInnermost_cons hstack]; exact ringHolds_replace (hstack ▸ h) (hs e) (hl e)

theorem ringHolds_map {j : Journal} {g : Epoch → Epoch} (hs : ∀ e, (g e).runStart = e.runStart)
    (hl : ∀ e, (g e).runLength = e.runLength) {l : List Epoch} (h : ringHolds j l) : ringHolds j (l.map g) := by
  have htotal : runTotal (l.map g) = runTotal l := by simp [runTotal, hl, Function.comp_def]
  have hruns (tail : Slot) : runsFrom tail (l.map g) = runsFrom tail l := by
    clear h htotal
    induction l with
    | nil => rfl
    | cons e r ih => rw [List.map_cons, runsFrom, runsFrom, hs, hl, ih]
  rwa [ringHolds, hruns, htotal]

theorem ringHolds_updateRecord (h : ringHolds s.jr s.ec.stack) (slot : Slot) (g : Record → Record) :
    ringHolds (updateRecord slot g s).jr s.ec.stack := by
  obtain ⟨hruns, hshape, hw, hplaced⟩ := h
  refine ⟨hruns, hshape, tableWf_update _ _ _ hw, fun x => ?_⟩
  refine Iff.trans ?_ (hplaced x)
  change (tableGet (tableUpdate s.jr.records slot.toNat g) x.toNat).isSome = true ↔ _
  by_cases hx : x.toNat = slot.toNat
  · rw [hx, tableGet_update_same, Option.isSome_map]
  · rw [tableGet_update_other _ _ hx]

theorem journalLawful_release (eligible : BitVec 16) (h : journalLawful s) :
    journalLawful (releaseInnermost eligible s) := by
  cases hstack : s.ec.stack with
  | nil => rw [releaseInnermost, hstack]; exact h
  | cons e rest =>
    have hring := hstack ▸ h.1
    have hafter := releaseInnermost_stack eligible s
    have hwater : waterLawful (releaseInnermost eligible s) := by
      rw [releaseInnermost, hstack]; exact decide_eq_true_iff
    refine ⟨?_, hwater⟩
    rw [hafter, hstack, List.tail_cons, releaseInnermost, hstack]
    change ringHolds (if rest = [] then releaseTail e s.jr else releaseHead e s.jr) rest
    split
    · subst rest; exact ringHolds_releaseTail hring
    · exact ringHolds_releaseHead hring

/-- The newest record removed while the innermost epoch has a run. -/
theorem journalLawful_drop {e : Epoch} {rest : List Epoch} (h : journalLawful s) (hstack : s.ec.stack = e :: rest)
    (hrun : 1 ≤ e.runLength) (w : Bool) : journalLawful (armWater (dropNewest w s)) := by
  refine ⟨?_, waterLawful_armWater _⟩
  have hafter : (armWater (dropNewest w s)).ec.stack = _ := mapInnermost_cons hstack
  rw [hafter]
  exact ringHolds_drop (e' := { e with runLength := e.runLength - 1, restored := e.restored + bit w }) (hstack ▸ h.1)
    hrun rfl rfl

theorem journalLawful_epoch (h : EpochChange s t) (he : epochsLawful s) (hs : journalLawful s) : journalLawful t := by
  cases h with
  | push => exact journalLawful_congr hs rfl rfl fun h => ringHolds_push h rfl rfl
  | @reserve line k own sequence hn =>
    obtain ⟨-, -, hfree, e, rest, hstack, -⟩ := captureNeed_capture hn
    refine ⟨?_, waterLawful_armWater _⟩
    have hafter : (armWater (reserveSlot line k own sequence s)).ec.stack = _ := mapInnermost_cons hstack
    rw [hafter]
    have hring : ringHolds s.jr (e :: rest) := hstack ▸ hs.1
    exact ringHolds_append (e' := { e with runLength := e.runLength + 1 }) hring hfree _ rfl rfl
  | updateRecord slot g => exact ⟨ringHolds_updateRecord hs.1 slot g, hs.2⟩
  | dropVoid hstack _ hrun => exact journalLawful_drop hs hstack (Nat.one_le_iff_ne_zero.mpr hrun) false
  | dropWritten hq =>
    obtain ⟨e, rest, hstack, -, hrun⟩ := he.2.2 (by rw [hq]; exact nofun)
    exact journalLawful_drop hs hstack hrun true
  | release => exact journalLawful_release _ hs
  | releaseAll => exact releaseAll_keeps (journalLawful_release _) hs
  | @merge e p rest hstack =>
    have hafter : (mergeInnermost e p s).ec.stack = mergedParent e p :: rest :=
      mapInnermost_cons (by rw [popEpoch_ec_stack, hstack, List.tail_cons])
    refine journalLawful_congr hs rfl rfl fun h => ?_
    rw [hafter]
    rw [hstack] at h
    exact ringHolds_merge h rfl rfl
  | endRollback hstack _ hrun =>
    refine journalLawful_congr hs rfl rfl fun h => ?_
    change ringHolds s.jr s.ec.stack.tail
    rw [hstack] at h ⊢
    exact ringHolds_pop h hrun
  | breakAll =>
    exact journalLawful_congr hs rfl rfl
      (ringHolds_map (g := fun e => { e with broken := true }) (fun _ => rfl) fun _ => rfl)
  | beginClosing => exact journalLawful_congr hs rfl rfl (ringHolds_mapInnermost (fun _ => rfl) (fun _ => rfl))
  | reopen => exact journalLawful_congr hs rfl rfl (ringHolds_mapInnermost (fun _ => rfl) (fun _ => rfl))
  | startRestore => exact journalLawful_congr hs rfl rfl (ringHolds_mapInnermost (fun _ => rfl) (fun _ => rfl))
  | halt => exact journalLawful_congr hs rfl rfl (ringHolds_mapInnermost (fun _ => rfl) (fun _ => rfl))
  | _ => exact hs

/-- The items but LOW_WATER leave the watermark alone. -/
theorem lowWater_of_writeItem {c cfg : ConfigItems} {item value : Nat} (h : writeItem c item value = some cfg)
    (hi : item ≠ 3) : cfg.lowWater = c.lowWater := by
  unfold writeItem at h
  split at h
  · split at h <;> cases h <;> rfl
  · split at h <;> cases h; rfl
  · split at h <;> cases h; rfl
  · exact absurd rfl hi
  · split at h <;> cases h; rfl
  · split at h <;> cases h; rfl
  · cases h

theorem journalLawful_config {item value : Nat} {cfg : ConfigItems} (hc : writeItem s.cfg item value = some cfg)
    (hs : journalLawful s) : journalLawful (applyItem item cfg s) := by
  by_cases hi : item = 3
  · subst hi
    exact ⟨hs.1, decide_eq_true_iff⟩
  · rw [applyItem, if_neg hi]
    split <;> exact journalLawful_congr hs rfl (lowWater_of_writeItem hc hi) id

theorem waterLawful_reset : waterLawful State.reset := by unfold waterLawful; decide

theorem journalLawful_change (h : Change s t) (he : epochsLawful s) (hs : journalLawful s) : journalLawful t := by
  cases h with
  | outside => exact hs
  | events h => rw [h.frame]; exact hs
  | popEvent => exact hs
  | config hc => exact journalLawful_config hc hs
  | region h => rw [h.frame]; exact hs
  | work h => rw [h.frame]; exact hs
  | epoch h => exact journalLawful_epoch h he hs
  | reset =>
    refine ⟨⟨rfl, ⟨Nat.zero_le _, rfl, nofun, nofun⟩, rfl, fun slot => ⟨nofun, nofun⟩⟩, ?_⟩
    exact waterLawful_reset

end

/-- Settles O56: the ring's laws go with those of the epoch stack, which say that the sequencer removes a record only
from a run that holds one. -/
theorem ringStaysLawful : Obligations.RingStaysLawful := by
  intro s t hstack hpending hsequencer htables hring hwater hplaced hr
  have hrecords := htables.2.1
  rw [recordsWf, Bool.and_eq_true] at hrecords
  have hs : epochsLawful s ∧ journalLawful s :=
    ⟨⟨hstack, hpending, hsequencer⟩, (ringHolds_iff hrecords.1).mpr ⟨hring, hplaced⟩, hwater⟩
  have ht : epochsLawful t ∧ journalLawful t :=
    step_keeps (P := fun u => epochsLawful u ∧ journalLawful u)
      (fun h hs => ⟨epochsLawful_change h hs.1, journalLawful_change h hs.1 hs.2⟩)
      (fun _ _ h => h) (fun _ _ h => h) (fun h => h) (fun _ h => h) hs hr
  obtain ⟨hring', hplaced'⟩ := (ringHolds_iff ht.2.1.2.2.1).mp ht.2.1
  exact ⟨hring', ht.2.2, hplaced'⟩

end Sys2Proof.Machine
end


section
/-! PROOFS. The downstream tags and the DOWN links (07 R117, R126, R128, R129). -/

namespace Sys2Proof.Machine

open Sys2Proof.Safety

/-! ## What a failure leaves of the downstream port -/

/-- A state with the tags of another, and no step more that waits for one. -/
def samePort (s t : State) : Prop :=
  t.dp.tracker = s.dp.tracker ∧ t.dp.quarantine = s.dp.quarantine ∧ t.dp.tagWait ⊆ s.dp.tagWait

/-- A failed restore before the entry actions of HALTED and its event (05 R95). -/
def haltEpoch (slot : Slot) (s : State) : State :=
  setSequencer .IDLE (changeInnermost (fun e => { e with state := .HALTED })
    (stopWaiting (.restore slot) (leaveChain (recordLine s slot) (.restore slot)
      (updateRecord slot (fun r => { r with state := .HELD }) s))))

theorem failRestore_eq (cause : HaltCause) (slot : Slot) (s : State) : failRestore cause slot s =
    postEvent .HALTED (innermostSequence (enterHalted (haltEpoch slot s))) (some (recordLine s slot))
      (haltedDetail slot cause) (enterHalted (haltEpoch slot s)) := rfl

/-- The entries of the tracker fail one after another (07 R128, step 2). -/
def failEntries (s : State) : State := s.dp.tracker.foldl failEntry s

/-- Every quarantine over (07 R128). -/
def clearQuarantine (s : State) : State := { s with dp := { s.dp with quarantine := [] } }

/-- The steps that wait for a tag fail (07 R128, step 5). -/
def failWaiters (s : State) : State := setTagWait [] ((waitersFailed s).foldl failWaiting s)

/-- The writes in SPACE_WAIT fail (07 R128, step 6). -/
def failWrites (s : State) : State := (heldFor s .SPACE).foldl failSpaceWait s

theorem loseDownstream_eq (s : State) : loseDownstream s = failWrites (failWaiters (clearQuarantine (failEntries
    (postEvent .LINK_CHANGE none none (linkDetail true .DOWN) (dropLink s))))) := rfl

section
variable {s t u : State}

theorem samePort.refl (s : State) : samePort s s := ⟨rfl, rfl, List.Subset.refl _⟩

theorem samePort.trans (h : samePort s t) (h' : samePort t u) : samePort s u :=
  ⟨h'.1.trans h.1, h'.2.1.trans h.2.1, List.Subset.trans h'.2.2 h.2.2⟩

theorem samePort_of_dp (h : t.dp = s.dp) : samePort s t := by
  rw [samePort, h]
  exact ⟨rfl, rfl, List.Subset.refl _⟩

theorem samePort_endContext (g : HostTag) (c : Context) (st : HostStatus) (d : Option Data) (s : State) :
    samePort s (endContext g c st d s) := ⟨rfl, rfl, List.filter_subset_self _⟩

theorem samePort_foldl {α : Type} {g : State → α → State} (hg : ∀ s a, samePort s (g s a)) (l : List α) :
    ∀ s, samePort s (l.foldl g s) := by
  induction l with
  | nil => exact samePort.refl
  | cons a r ih => exact fun s => (hg s a).trans (ih _)

theorem samePort_fenceAll (tags : List HostTag) (s : State) : samePort s (fenceAll tags s) := by
  refine samePort_foldl (fun s g => ?_) tags s
  cases contextOf s g with
  | none => exact samePort.refl s
  | some c => exact samePort_endContext g c .FENCED none s

theorem samePort_enterHalted (s : State) : samePort s (enterHalted s) :=
  (samePort_fenceAll _ _).trans (samePort_fenceAll _ _)

theorem samePort_haltEpoch (slot : Slot) (s : State) : samePort s (haltEpoch slot s) :=
  ⟨rfl, rfl, List.filter_subset_self _⟩

theorem samePort_failRestore (cause : HaltCause) (slot : Slot) (s : State) : samePort s (failRestore cause slot s) := by
  rw [failRestore_eq]
  exact ((samePort_haltEpoch slot s).trans (samePort_enterHalted _)).trans (samePort_of_dp (postEvent_dp ..))

theorem samePort_failCapture (slot : Slot) (line : Line) (old : Ident) (s : State) :
    samePort s (failCapture slot line old s) := samePort_of_dp rfl

theorem samePort_leaveChain (line : Line) (st : Step) (s : State) : samePort s (leaveChain line st s) :=
  samePort_of_dp rfl

theorem samePort_failOwner (g : DownTag) (e : TrackerEntry) (cause : HaltCause) (s : State) :
    samePort s (failOwner g e cause s) := by
  unfold failOwner
  split
  · split
    · exact samePort.refl s
    · split
      · exact (samePort_failCapture ..).trans (samePort_endContext ..)
      · exact samePort_endContext ..
  · split
    · exact samePort_failRestore ..
    · exact samePort.refl s
    · exact samePort.refl s
  · split
    · exact (samePort_failCapture ..).trans (samePort_leaveChain ..)
    · exact samePort_leaveChain ..

theorem samePort_failWaiting (s : State) (st : Step) : samePort s (failWaiting s st) := by
  unfold failWaiting
  split
  · split
    · exact samePort_endContext ..
    · exact samePort.refl s
  · split
    · exact samePort_failRestore ..
    · exact samePort.refl s
  · exact samePort.refl s

theorem samePort_failSpaceWait (s : State) (g : HostTag) : samePort s (failSpaceWait s g) := by
  unfold failSpaceWait
  split
  · split
    · exact samePort_endContext ..
    · exact samePort.refl s
  · exact samePort.refl s

end

/-- Every entry of the tracker fails at the loss of the link, and its tag is free (07 R128). -/
theorem tracker_foldl_failEntry (l : Table TrackerEntry) (hl : ∀ p ∈ l, p.1 < 64) :
    ∀ s : State, s.dp.tracker = l → (l.foldl failEntry s).dp.tracker = [] := by
  induction l with
  | nil => exact fun s hs => hs
  | cons p r ih =>
    intro s hs
    rw [List.foldl_cons]
    refine ih (fun q hq => hl q (List.mem_cons_of_mem _ hq)) _ ?_
    have hkey : (Fin.ofNat 64 p.1).val = p.1 := Nat.mod_eq_of_lt (hl p (List.mem_cons_self ..))
    rw [failEntry, (samePort_failOwner ..).1]
    change tableErase s.dp.tracker (Fin.ofNat 64 p.1).val = r
    rw [hs, hkey, tableErase, if_pos rfl]

/-- The loss of the downstream link leaves nothing outstanding, quarantined or waiting (07 R128). -/
theorem loseDownstream_port {s : State} (h : ∀ p ∈ s.dp.tracker, p.1 < 64) :
    (loseDownstream s).dp.tracker = [] ∧ (loseDownstream s).dp.quarantine = [] ∧
      (loseDownstream s).dp.tagWait = [] := by
  have entries : (failEntries _).dp.tracker = [] := tracker_foldl_failEntry s.dp.tracker h
    (postEvent .LINK_CHANGE none none (linkDetail true .DOWN) (dropLink s)) rfl
  rw [loseDownstream_eq]
  generalize failEntries _ = u at entries ⊢
  obtain ⟨htracker, hquarantine, -⟩ := samePort_foldl samePort_failWaiting _ (clearQuarantine u)
  obtain ⟨htracker', hquarantine', hwait⟩ := samePort_foldl samePort_failSpaceWait _ (failWaiters (clearQuarantine u))
  exact ⟨htracker'.trans (htracker.trans entries), hquarantine'.trans hquarantine, List.subset_nil.mp hwait⟩

/-! ## The laws of the tags and of the links -/

/-- The laws of 07 R117, R126, R128 and R129 but for the DOWN downstream link, with the stores they speak of. -/
def tagsLawful (s : State) : Prop := workTablesLawful s ∧ tagsApart s ∧ upLinkLawful s

section
variable {α : Type} {t : Table α} {k j : Nat}

theorem tableGet_erase_isSome (hw : tableWf t = true) (h : (tableGet (tableErase t k) j).isSome = true) :
    j ≠ k ∧ (tableGet t j).isSome = true := by
  by_cases hj : j = k
  · rw [hj, tableGet_erase_same t k hw] at h; cases h
  · rw [tableGet_erase_other t hj] at h; exact ⟨hj, h⟩

theorem tableGet_map_isSome (t : Table α) (g : Nat × α → α) (k : Nat) :
    (tableGet (t.map fun p => (p.1, g p)) k).isSome = (tableGet t k).isSome := by
  induction t with
  | nil => rfl
  | cons p r ih =>
    obtain ⟨k', v⟩ := p
    by_cases hk : k = k'
    · simp [tableGet, hk]
    · simpa [tableGet, hk] using ih

end

theorem overtaken_subset (s : State) (c : List Step) : overtaken s c ⊆ s.dp.tagWait := by
  unfold overtaken
  split
  · exact List.Subset.refl _
  · split
    · exact List.Subset.refl _
    · exact List.filter_subset_self _

section
variable {s t : State}

theorem tagsApart_work (h : WorkChange s t) (hw : workTablesLawful s) (hs : tagsApart s) : tagsApart t := by
  obtain ⟨-, -, ⟨htracker, -⟩, ⟨hquarantine, -⟩⟩ := hw
  cases h with
  | @issue g _ _ _ _ _ hfree =>
    intro u hu
    by_cases hug : u.val = g.val
    · change (tableGet s.dp.quarantine u.val).isSome = false
      rw [hug, hfree]; rfl
    · refine hs u ?_
      change (tableGet (tableSet s.dp.tracker g.val _) u.val).isSome = true at hu
      rwa [tableGet_set_other _ _ hug] at hu
  | removeEntry g => exact fun u hu => hs u (tableGet_erase_isSome htracker hu).2
  | timeOut l =>
    intro u hu
    obtain ⟨hug, hu'⟩ := tableGet_erase_isSome htracker hu
    have hother := tableGet_set_other s.dp.quarantine l hug
    exact (congrArg Option.isSome hother).trans (hs u hu')
  | endQuarantine g =>
    intro u hu
    by_contra hq
    have hq' := (tableGet_erase_isSome hquarantine (Bool.eq_true_of_not_eq_false hq)).2
    rw [hs u hu] at hq'
    cases hq'
  | clearQuarantine => exact fun _ _ => rfl
  | orphanAll =>
    intro u hu
    exact hs u ((tableGet_map_isSome s.dp.tracker (fun p => orphanEntry s p.2) u.val).symm.trans hu)
  | _ => exact fun u hu => hs u hu

/-- A live context is gone with the upstream link (07 R126). -/
theorem upLink_ne_down {g : HostTag} {c : Context} (hs : upLinkLawful s) (hc : contextOf s g = some c) :
    s.upLink ≠ .DOWN := by
  intro hd
  rw [contextOf, (hs hd).1] at hc
  cases hc

theorem upLinkLawful_work (h : WorkChange s t) (hs : upLinkLawful s) : upLinkLawful t := by
  cases h with
  | createContext _ _ hup => exact fun hd => absurd hd hup
  | updateContext g f hf =>
    intro hd
    obtain ⟨hcontexts, hholds⟩ := hs hd
    exact ⟨by simp [updateContext, hcontexts, tableUpdate, tableGet], hholds⟩
  | discardContext hc => exact fun hd => absurd ((discardContext_upLink ..).symm.trans hd) (upLink_ne_down (s := s) hs hc)
  | joinHolds _ hc => exact fun hd => absurd hd (upLink_ne_down (s := s) hs hc)
  | leaveHolds g =>
    intro hd
    obtain ⟨hcontexts, hholds⟩ := hs hd
    exact ⟨hcontexts, by simp [leaveHolds, hholds]⟩
  | orphanAll => exact fun _ => ⟨rfl, rfl⟩
  | upstreamUp => exact nofun
  | _ => exact fun hd => hs hd

theorem downLinkLawful_work (h : WorkChange s t) (hs : downLinkLawful s) : downLinkLawful t := by
  cases h with
  | issue _ _ _ _ hup => exact fun hd => absurd hd hup
  | removeEntry g =>
    intro hd
    obtain ⟨htracker, hrest⟩ := hs hd
    exact ⟨by simp [removeEntry, htracker, tableErase], hrest⟩
  | timeOut _ he =>
    intro hd
    rw [(hs hd).1] at he
    cases he
  | endQuarantine g =>
    intro hd
    obtain ⟨htracker, hquarantine, hwait⟩ := hs hd
    exact ⟨htracker, by simp [endQuarantine, hquarantine, tableErase], hwait⟩
  | clearQuarantine => exact fun hd => ⟨(hs hd).1, rfl, (hs hd).2.2⟩
  | discardContext hc =>
    intro hd
    obtain ⟨htracker, hquarantine, hwait⟩ := hs hd
    exact ⟨htracker, hquarantine, List.subset_nil.mp (hwait ▸ List.filter_subset_self _)⟩
  | placeStep slot l =>
    intro hd
    obtain ⟨htracker, hquarantine, hwait⟩ := hs hd
    exact ⟨htracker, hquarantine, List.subset_nil.mp (hwait ▸ overtaken_subset s _)⟩
  | waitHost hup => exact fun hd => absurd hd hup
  | waitFirst _ hup => exact fun hd => absurd hd hup
  | stopWaiting hl =>
    intro hd
    obtain ⟨htracker, hquarantine, hwait⟩ := hs hd
    exact ⟨htracker, hquarantine, List.subset_nil.mp (hwait ▸ hl)⟩
  | orphanAll =>
    intro hd
    obtain ⟨htracker, hquarantine, hwait⟩ := hs hd
    exact ⟨by simp [orphanAll, htracker], hquarantine, by simp [orphanAll, hwait]⟩
  | downstreamUp => exact nofun
  | _ => exact hs

/-- A law that speaks of the requests in work alone is kept by every small change that work's changes and a reset
keep it by. -/
theorem Change.keeps_work {P : State → Prop}
    (congr : ∀ {s t : State}, P s → t.upLink = s.upLink → t.contexts = s.contexts → t.lht = s.lht →
      t.holds = s.holds → t.dp = s.dp → P t)
    (work : ∀ {s t : State}, WorkChange s t → P s → P t) (reset : P State.reset) (h : Change s t) (hs : P s) : P t := by
  cases h with
  | outside => exact congr hs rfl rfl rfl rfl rfl
  | events h => rw [h.frame]; exact congr hs rfl rfl rfl rfl rfl
  | popEvent => exact congr hs rfl rfl rfl rfl rfl
  | config => rw [applyItem_frame]; exact congr hs rfl rfl rfl rfl rfl
  | region h => rw [h.frame]; exact congr hs rfl rfl rfl rfl rfl
  | work h => exact work h hs
  | epoch h => rw [h.frame]; exact congr hs rfl rfl rfl rfl rfl
  | reset => exact congr reset rfl rfl rfl rfl rfl

theorem workTablesLawful_congr (hcontexts : t.contexts = s.contexts) (hlht : t.lht = s.lht) (hdp : t.dp = s.dp)
    (h : workTablesLawful s) : workTablesLawful t := by
  rwa [workTablesLawful, hcontexts, hlht, hdp]

theorem workTablesLawful_reset : workTablesLawful State.reset :=
  ⟨keysBelow_nil, ⟨rfl, nofun⟩, keysBelow_nil, keysBelow_nil⟩

theorem tagsLawful_change (h : Change s t) (hs : tagsLawful s) : tagsLawful t := by
  refine h.keeps_work (fun h hup hcontexts hlht hholds hdp => ?_)
    (fun h hs => ⟨workTablesLawful_work h hs.1, tagsApart_work h hs.1 hs.2.1, upLinkLawful_work h hs.2.2⟩)
    ⟨workTablesLawful_reset, nofun, fun _ => ⟨rfl, rfl⟩⟩ hs
  obtain ⟨htables, hapart, hlink⟩ := h
  refine ⟨workTablesLawful_congr hcontexts hlht hdp htables, ?_, ?_⟩
  · rwa [tagsApart, hdp]
  · rwa [upLinkLawful, hup, hcontexts, hholds]

theorem downLinkLawful_change (h : Change s t) (hs : downLinkLawful s) : downLinkLawful t := by
  refine h.keeps_work (fun h _ _ _ _ hdp => ?_) downLinkLawful_work (fun _ => ⟨rfl, rfl, rfl⟩) hs
  rwa [downLinkLawful, hdp]

end

/-- The end of a pass changes no key. -/
theorem workTablesLawful_completePass {s : State} (h : workTablesLawful s) : workTablesLawful (completePass s) := by
  obtain ⟨hcontexts, hchains, htracker, hquarantine⟩ := h
  exact ⟨keysBelow_map hcontexts _, hchains, keysBelow_map htracker _, hquarantine⟩

theorem tagsLawful_completePass {s : State} (h : tagsLawful s) : tagsLawful (completePass s) := by
  obtain ⟨htables, hapart, hlink⟩ := h
  refine ⟨workTablesLawful_completePass htables, fun u hu => hapart u ?_, fun hd => ?_⟩
  · refine Eq.trans ?_ hu
    exact (tableGet_map_isSome s.dp.tracker _ u.val).symm
  · obtain ⟨hcontexts, hholds⟩ := hlink hd
    exact ⟨by simp [completePass, clearKeptStamps, hcontexts], hholds⟩

theorem downLinkLawful_completePass {s : State} (h : downLinkLawful s) : downLinkLawful (completePass s) := by
  intro hd
  obtain ⟨htracker, hquarantine, hwait⟩ := h hd
  exact ⟨by simp [completePass, clearKeptStamps, htracker], hquarantine, hwait⟩

/-- Settles O58: the small changes keep the laws with the downstream link as it is; its loss leaves the port empty. -/
theorem tagsAndLinksStayLawful : Obligations.TagsAndLinksStayLawful := by
  intro s t htables _ hapart hdown hup hr
  obtain ⟨⟨htables', hapart', hup'⟩, hdown'⟩ : tagsLawful t ∧ downLinkLawful t :=
    step_keeps_from (P := fun u => tagsLawful u ∧ downLinkLawful u)
      (fun h hs => ⟨tagsLawful_change h hs.1, downLinkLawful_change h hs.2⟩)
      (fun _ _ _ => ⟨⟨htables.2.2, hapart, hup⟩, hdown⟩)
      (fun _ _ _ => ⟨tagsLawful_completePass ⟨htables.2.2, hapart, hup⟩, downLinkLawful_completePass hdown⟩)
      (fun h => ⟨(loseDownstream_path _).keeps tagsLawful_change h.1,
        fun _ => loseDownstream_port h.1.1.2.2.1.2⟩)
      (fun _ => ⟨⟨htables.2.2, hapart, hup⟩, hdown⟩) hr
  exact ⟨hapart', hdown', hup'⟩

end Sys2Proof.Machine
end


section
/-! PROOFS. Chains, holds and waits have live contexts (04 R54, R56, R58, R63; 07 R119). -/

namespace Sys2Proof.Machine

open Sys2Proof.Safety

/-! ## The entries of a changed chain -/

theorem mem_putChain {lht : Table (List Step)} {line : Line} {c : List Step} {p : Nat × List Step}
    (hw : tableWf lht = true) (hp : p ∈ putChain lht line c) :
    (p.1 = line.toNat ∧ p.2 = c) ∨ (p.1 ≠ line.toNat ∧ p ∈ lht) := by
  have hget := tableGet_of_mem (tableWf_putChain lht line c hw) (show (p.1, p.2) ∈ _ from hp)
  unfold putChain at hp hget
  split at hp
  · rw [if_pos ‹_›] at hget
    exact .inr ⟨key_ne_of_mem_erase hw hp, mem_tableErase hp⟩
  · rw [if_neg ‹_›] at hget
    by_cases hk : p.1 = line.toNat
    · rw [hk, tableGet_set_same] at hget
      exact .inl ⟨hk, (Option.some_inj.mp hget).symm⟩
    · exact .inr ⟨hk, (mem_tableSet hp).resolve_left fun h => hk (congrArg Prod.fst h)⟩

theorem mem_of_mem_chainOf {s : State} {line : Line} {st : Step} (h : st ∈ chainOf s line) :
    (line.toNat, chainOf s line) ∈ s.lht := by
  unfold chainOf at h ⊢
  split
  · exact tableGet_mem ‹_›
  · rw [‹tableGet _ _ = none›] at h; cases h

theorem mem_placeAhead {s : State} {slot : Slot} {chain : List Step} {st : Step} (h : st ∈ placeAhead s slot chain) :
    st = .restore slot ∨ st ∈ chain := by
  unfold placeAhead at h
  split at h
  · exact .inl (List.mem_singleton.mp h)
  · split at h
    · simp only [List.mem_cons] at h ⊢; tauto
    · simp only [List.mem_cons] at h ⊢; tauto

/-- No host step is left in a chain when the upstream link is lost (07 R126). -/
theorem host_not_mem_orphanChain {s : State} {p q : Nat × List Step} (h : orphanChain s p = some q) (g : HostTag) :
    Step.host g ∉ q.2 := by
  have hq : q.2 = p.2.filterMap (orphanStep s) := by
    unfold orphanChain at h
    split at h
    · cases h
    · cases h; rfl
  rw [hq, List.mem_filterMap]
  rintro ⟨st, -, hst⟩
  unfold orphanStep at hst
  split at hst
  · split at hst
    · split at hst
      · obtain ⟨t, -, ht⟩ := Option.map_eq_some_iff.mp hst; cases ht
      · cases hst
    · cases hst
  · cases hst
  · cases hst

/-! ## The law part by part -/

/-- A live context for a line. -/
def liveFor (s : State) (g : HostTag) (line : Nat) : Prop := ∃ c, contextOf s g = some c ∧ c.line.toNat = line

/-- Every host step of a chain has its live context. -/
def chainsLive (s : State) (lht : Table (List Step)) : Prop := ∀ p ∈ lht, ∀ g, Step.host g ∈ p.2 → liveFor s g p.1

/-- Every held request has its live context. -/
def holdsLive (s : State) (holds : List HoldEntry) : Prop := ∀ h ∈ holds, liveFor s h.tag h.line.toNat

/-- Every host step that waits for a tag has a live context. -/
def waitsLive (s : State) (l : List Step) : Prop := ∀ g, Step.host g ∈ l → ∃ line, liveFor s g line

theorem workLawful_iff {s : State} :
    workLawful s ↔ chainsLive s s.lht ∧ holdsLive s s.holds ∧ waitsLive s s.dp.tagWait := by
  have hchain (g : HostTag) (n : Nat) : (contextOf s g).map (·.line.toNat) = some n ↔ liveFor s g n := by
    rw [Option.map_eq_some_iff, liveFor]
  have hhold (g : HostTag) (l : Line) : (contextOf s g).map (·.line) = some l ↔ liveFor s g l.toNat := by
    rw [Option.map_eq_some_iff, liveFor]
    simp only [BitVec.toNat_inj]
  have hwait (g : HostTag) : (contextOf s g).isSome = true ↔ ∃ line, liveFor s g line := by
    rw [Option.isSome_iff_exists]
    exact ⟨fun ⟨c, hc⟩ => ⟨_, c, hc, rfl⟩, fun ⟨_, c, hc, _⟩ => ⟨c, hc⟩⟩
  simp only [workLawful, chainsLive, holdsLive, waitsLive, hchain, hhold, hwait]

section
variable {s t : State}

/-- The law holds on where contexts keep their lines and no step or hold is new. -/
theorem workLawful_mono (hlive : ∀ g line, liveFor s g line → liveFor t g line)
    (hchains : chainsLive s t.lht) (hholds : holdsLive s t.holds) (hwaits : waitsLive s t.dp.tagWait) :
    workLawful t :=
  workLawful_iff.mpr ⟨fun p hp g hg => hlive _ _ (hchains p hp g hg), fun h hh => hlive _ _ (hholds h hh),
    fun g hg => (hwaits g hg).imp fun line => hlive g line⟩

theorem liveFor_congr (h : t.contexts = s.contexts) (g : HostTag) (line : Nat) (hl : liveFor s g line) :
    liveFor t g line := by
  rwa [liveFor, contextOf, h]

theorem waitsLive_subset {l l' : List Step} (h : waitsLive s l) (hl : l' ⊆ l) : waitsLive s l' :=
  fun g hg => h g (hl hg)

theorem liveFor_of_chain (hs : chainsLive s s.lht) {line : Line} {g : HostTag} (h : Step.host g ∈ chainOf s line) :
    liveFor s g line.toNat := hs _ (mem_of_mem_chainOf h) g h

/-- A chain changed to one whose host steps have contexts for its line. -/
theorem chainsLive_put (hs : chainsLive s s.lht) (hw : tableWf s.lht = true) {line : Line} {c : List Step}
    (hc : ∀ g, Step.host g ∈ c → liveFor s g line.toNat) : chainsLive s (putChain s.lht line c) := by
  intro p hp g hg
  rcases mem_putChain hw hp with ⟨hk, hv⟩ | ⟨-, hp⟩
  · rw [hk]; exact hc g (hv ▸ hg)
  · exact hs p hp g hg

theorem liveFor_set_other {g u : HostTag} {x : Context} {line : Nat} (hu : u.val ≠ g.val) (h : liveFor s u line) :
    liveFor { s with contexts := tableSet s.contexts g.val x } u line := by
  obtain ⟨c, hc, hl⟩ := h
  exact ⟨c, (tableGet_set_other _ _ hu).trans hc, hl⟩

theorem liveFor_createContext {g u : HostTag} {r : Request} {l : Line} {line : Nat} (hg : contextOf s g = none)
    (h : liveFor s u line) : liveFor (createContext g r l s) u line := by
  refine liveFor_set_other (fun hu => ?_) h
  obtain ⟨c, hc, -⟩ := h
  rw [contextOf, hu, ← contextOf, hg] at hc
  cases hc

theorem liveFor_updateContext {g u : HostTag} {f : Context → Context} {line : Nat} (hf : ∀ x, (f x).line = x.line)
    (h : liveFor s u line) : liveFor (updateContext g f s) u line := by
  obtain ⟨c, hc, hl⟩ := h
  by_cases hu : u.val = g.val
  · refine ⟨f c, ?_, by rw [hf]; exact hl⟩
    rw [contextOf, hu] at hc
    change tableGet (tableUpdate s.contexts g.val f) u.val = _
    rw [hu, tableGet_update_same, hc, Option.map_some]
  · exact ⟨c, (tableGet_update_other _ _ hu).trans hc, hl⟩

/-- A context ends with every step, hold and wait of its own (04 R56). -/
theorem workLawful_discardContext {g : HostTag} {c : Context} (hc : contextOf s g = some c)
    (hw : tableWf s.lht = true) (hs : workLawful s) : workLawful (discardContext g c s) := by
  obtain ⟨hchains, hholds, hwaits⟩ := workLawful_iff.mp hs
  have other {u : HostTag} {line : Nat} (hu : u ≠ g) (h : liveFor s u line) : liveFor (discardContext g c s) u line := by
    obtain ⟨x, hx, hl⟩ := h
    exact ⟨x, (tableGet_erase_other _ (Fin.val_ne_of_ne hu)).trans hx, hl⟩
  refine workLawful_iff.mpr ⟨fun p hp u hu => ?_, fun h hh => ?_, fun u hu => ?_⟩
  · rcases mem_putChain hw hp with ⟨hk, hv⟩ | ⟨hk, hp⟩
    · rw [hv, List.mem_filter, bne_iff_ne, ne_eq, Step.host.injEq] at hu
      rw [hk]
      exact other hu.2 (liveFor_of_chain hchains hu.1)
    · have hlive := hchains p hp u hu
      refine other (fun hug => hk ?_) hlive
      obtain ⟨x, hx, hl⟩ := hlive
      rw [hug, hc] at hx
      cases hx
      exact hl.symm
  · obtain ⟨hh, hne⟩ := List.mem_filter.mp hh
    exact other (bne_iff_ne.mp hne) (hholds h hh)
  · obtain ⟨hu, hne⟩ := List.mem_filter.mp hu
    rw [bne_iff_ne, ne_eq, Step.host.injEq] at hne
    exact (hwaits u hu).imp fun line => other hne

theorem workLawful_work (h : WorkChange s t) (hw : workTablesLawful s) (hs : workLawful s) : workLawful t := by
  obtain ⟨-, ⟨hlht, -⟩, -⟩ := hw
  have ⟨hchains, hholds, hwaits⟩ := workLawful_iff.mp hs
  have same {g : HostTag} {c : Context} (hc : contextOf s g = some c) : liveFor s g c.line.toNat := ⟨c, hc, rfl⟩
  cases h with
  | createContext r l _ hg => exact workLawful_mono (fun _ _ => liveFor_createContext hg) hchains hholds hwaits
  | updateContext g f hf => exact workLawful_mono (fun _ _ => liveFor_updateContext hf) hchains hholds hwaits
  | discardContext hc => exact workLawful_discardContext hc hlht hs
  | joinHolds r hc =>
    refine workLawful_mono (liveFor_congr rfl) hchains (fun h hh => ?_) hwaits
    rcases List.mem_append.mp hh with hh | hh
    · exact hholds h hh
    · cases List.mem_singleton.mp hh
      exact same hc
  | leaveHolds g =>
    exact workLawful_mono (liveFor_congr rfl) hchains (fun h hh => hholds h (List.mem_of_mem_filter hh)) hwaits
  | joinChain hc =>
    refine workLawful_mono (liveFor_congr rfl) (chainsLive_put hchains hlht fun g hg => ?_) hholds hwaits
    rcases List.mem_append.mp hg with hg | hg
    · exact liveFor_of_chain hchains hg
    · cases List.mem_singleton.mp hg
      exact same hc
  | leaveChain l st =>
    exact workLawful_mono (liveFor_congr rfl)
      (chainsLive_put hchains hlht fun g hg => liveFor_of_chain hchains (List.mem_of_mem_filter hg)) hholds hwaits
  | placeStep slot l =>
    refine workLawful_mono (liveFor_congr rfl) (chainsLive_put hchains hlht fun g hg => ?_) hholds
      (waitsLive_subset hwaits (overtaken_subset s _))
    exact liveFor_of_chain hchains ((mem_placeAhead hg).resolve_left nofun)
  | waitHost _ hc =>
    refine workLawful_mono (liveFor_congr rfl) hchains hholds fun g hg => ?_
    rcases List.mem_append.mp hg with hg | hg
    · exact hwaits g hg
    · cases List.mem_singleton.mp hg
      exact ⟨_, same hc⟩
  | waitFirst slot =>
    refine workLawful_mono (liveFor_congr rfl) hchains hholds fun g hg => ?_
    exact hwaits g ((List.mem_cons.mp hg).resolve_left nofun)
  | stopWaiting hl => exact workLawful_mono (liveFor_congr rfl) hchains hholds (waitsLive_subset hwaits hl)
  | orphanAll =>
    refine workLawful_iff.mpr ⟨fun p hp g hg => ?_, nofun, fun g hg => ?_⟩
    · obtain ⟨q, -, hq⟩ := List.mem_filterMap.mp hp
      exact absurd hg (host_not_mem_orphanChain hq g)
    · exact absurd (List.mem_filter.mp hg).2 nofun
  | _ => exact workLawful_mono (liveFor_congr rfl) hchains hholds hwaits

/-- The law of the requests in work with the canonical form of their tables. -/
def requestsLawful (s : State) : Prop := workTablesLawful s ∧ workLawful s

theorem requestsLawful_change (h : Change s t) (hs : requestsLawful s) : requestsLawful t := by
  refine h.keeps_work (fun h _ hcontexts hlht hholds hdp => ?_)
    (fun h hs => ⟨workTablesLawful_work h hs.1, workLawful_work h hs.1 hs.2⟩)
    ⟨workTablesLawful_reset, nofun, nofun, nofun⟩ hs
  obtain ⟨htables, hwork⟩ := h
  refine ⟨workTablesLawful_congr hcontexts hlht hdp htables, ?_⟩
  simpa only [workLawful, contextOf, hcontexts, hlht, hholds, hdp] using hwork

/-- The end of a pass leaves every context its line. -/
theorem requestsLawful_completePass (hs : requestsLawful s) : requestsLawful (completePass s) := by
  obtain ⟨htables, hwork⟩ := hs
  have ⟨hchains, hholds, hwaits⟩ := workLawful_iff.mp hwork
  refine ⟨workTablesLawful_completePass htables, workLawful_mono (fun g line h => ?_) hchains hholds hwaits⟩
  obtain ⟨c, hc, hl⟩ := h
  have hmem := tableGet_mem hc
  refine ⟨_, tableGet_of_mem (workTablesLawful_completePass htables).1.1 (List.mem_map_of_mem hmem), ?_⟩
  split
  · exact hl
  · exact hl

end

/-- Settles O59: a context ends together with its steps, holds and waits, and none of these begins without one. -/
theorem workStaysTiedToContexts : Obligations.WorkStaysTiedToContexts := by
  intro s t htables _ hwork hr
  exact (step_keeps (P := requestsLawful) requestsLawful_change (fun _ _ h => h)
    (fun _ _ h => requestsLawful_completePass h) (fun h => h) (fun _ h => h) ⟨htables.2.2, hwork⟩ hr).2

end Sys2Proof.Machine
end


section
/-! PROOFS. Frames and their checks, the reply record, the status and the configuration items (10 R153 to R158). -/

namespace Sys2Proof.Machine

open Sys2Proof.Safety

/-- Settles O1: a step's first case. -/
theorem stepRunsTheFrontCommand : Obligations.StepRunsTheFrontCommand := by
  intro c rest s h
  rw [step, h]

/-! ## The rows of the frame commands (10 section 10.3) -/

section
variable {i : Instr} {code : Byte} {n : Nat} {f : Frame} {b : Bool}

/-- A row of the table is its code's command, with the code's frame. -/
theorem row_of_frameRow (h : frameRow i = some (code, n, f)) : commandOf code f (upstreamFirstOf i) = some i ∧
    encodeFrame i = some (frameOf code f) ∧ i.wellFormed = f.fits := by
  cases i <;> cases h <;> exact ⟨rfl, rfl, rfl⟩

theorem commandEpoch_onFrame (code : Byte) (op : EpochOp) (f : Frame) :
    ∃ act, ∀ s, commandEpoch code op f s = onFrame code 0 f s act := ⟨_, fun _ => rfl⟩

/-- A row of the table acts once its frame has passed the checks of 10 R154. -/
theorem exec_of_frameRow (h : frameRow i = some (code, n, f)) :
    ∃ act, ∀ s, exec i s = onFrame code n f s act := by
  cases i with
  | mrk => cases h; exact commandEpoch_onFrame ..
  | cmt => cases h; exact commandEpoch_onFrame ..
  | rbk => cases h; exact commandEpoch_onFrame ..
  | abn => cases h; exact commandEpoch_onFrame ..
  | dsc => cases h; exact commandEpoch_onFrame ..
  | _ => cases h <;> exact ⟨_, fun _ => by unfold exec; rfl⟩

/-- A frame is a command of the table, a bad one or one of an unknown code. -/
theorem frame_cases (h : (encodeFrame i).isSome = true) : (∃ code n f, frameRow i = some (code, n, f)) ∨
    (∃ bits bytes, i = .badFrame bits bytes) ∨ ∃ code f, i = .unknownCommand code f := by
  cases i <;> simp [encodeFrame, frameRow] at h ⊢

/-- Settles O3: by the kind of the frame. -/
theorem framesReadBack : Obligations.FramesReadBack := by
  intro i hw n bytes he
  rcases frame_cases (Option.isSome_iff_exists.mpr ⟨_, he⟩) with ⟨code, k, f, hrow⟩ | ⟨bits, bs, rfl⟩ | ⟨code, f, rfl⟩
  · obtain ⟨hcommand, hframe, hfits⟩ := row_of_frameRow hrow
    exact Laws.FrameRoundTrip.ofKnown code f hframe hcommand (hfits ▸ id) hw n bytes he
  · exact Laws.FrameRoundTrip.badFrame bits bs hw n bytes he
  · exact Laws.FrameRoundTrip.unknownCommand code f hw n bytes he

theorem eq_ofNat_of_toNat {v : Nat} (h : code.toNat = v) : code = BitVec.ofNat 8 v := by
  rw [← h, BitVec.ofNat_toNat, BitVec.setWidth_eq]

/-- The command of a code has a frame of that code. -/
theorem encodeFrame_of_commandOf (h : commandOf code f b = some i) :
    encodeFrame i = some (frameOf code f) ∧ i.wellFormed = f.fits := by
  unfold commandOf at h
  split at h <;> cases h <;> exact ⟨by rw [eq_ofNat_of_toNat ‹code.toNat = _›]; rfl, rfl⟩

/-- A period that passes check 1 has 2 to 24 whole bytes. -/
theorem badBitCount_eq_false_iff (n : Nat) : badBitCount n = false ↔ 16 ≤ n ∧ n % 8 = 0 ∧ n ≤ 192 := by
  rw [← Bool.not_eq_true, badBitCount]
  simp only [Config.frameBytes, Bool.or_eq_true, decide_eq_true_eq, bne_iff_ne]
  omega

/-- Settles O4: a period that fails check 1 is a bad frame; another starts with a code and a sequence, and its code
decides. -/
theorem everyFrameIsACommand : Obligations.EveryFrameIsACommand := by
  intro n bytes b hn hlen
  cases hbad : badBitCount n with
  | true =>
    refine ⟨.badFrame n bytes, by simp [decodeFrame, hn, hbad], ?_, rfl⟩
    simp [Instr.wellFormed, hn, hbad, hlen]
  | false =>
    obtain ⟨hlo, hwhole, hhi⟩ := (badBitCount_eq_false_iff n).mp hbad
    match bytes, hlen with
    | [], hlen | [_], hlen => simp only [List.length_nil, List.length_singleton] at hlen; omega
    | code :: seq :: tail, hlen =>
      simp only [List.length_cons] at hlen
      have hfits : (Frame.mk seq tail).fits = true := decide_eq_true (by simp only [Config.frameBytes]; omega)
      have hframe : frameOf code ⟨seq, tail⟩ = (n, code :: seq :: tail) := by
        rw [frameOf, show 8 * (tail.length + 2) = n by omega]
      cases hc : commandOf code ⟨seq, tail⟩ b with
      | some i =>
        obtain ⟨hencode, hwell⟩ := encodeFrame_of_commandOf hc
        exact ⟨i, by simp [decodeFrame, hn, hbad, hc], hwell.trans hfits, hencode.trans (congrArg some hframe)⟩
      | none =>
        have hunknown : isCommandCode code = false := by
          rw [← Laws.FrameRoundTrip.commandOf_isSome code ⟨seq, tail⟩ b, hc]; rfl
        refine ⟨.unknownCommand code ⟨seq, tail⟩, by simp [decodeFrame, hn, hbad, hc], ?_, congrArg some hframe⟩
        rw [Instr.wellFormed, hfits, hunknown]; rfl

end

/-! ## Checks 1 to 3 (10 R154) -/

section
variable {s : State} {f : Frame}

theorem frameTaken_eq_false (h : s.held = true ∨ ∃ r, s.mp.frame = some ⟨r, false⟩) : frameTaken s = false := by
  rcases h with h | ⟨r, h⟩ <;> simp [frameTaken, h]

/-- A frame that is not taken is over, whatever it holds. -/
theorem exec_notTaken {i : Instr} (hi : (encodeFrame i).isSome = true) (h : frameTaken s = false) :
    exec i s = .next (closeFrame s) := by
  rcases frame_cases hi with ⟨code, n, g, hrow⟩ | ⟨bits, bytes, rfl⟩ | ⟨code, g, rfl⟩
  · obtain ⟨act, hact⟩ := exec_of_frameRow hrow
    rw [hact, onFrame_notTaken h]
  · change execBadFrame bits bytes s = _
    rw [execBadFrame, h]; rfl
  · change execUnknownCommand code g s = _
    rw [execUnknownCommand, onFrame_notTaken h]

theorem exec_badFrame {n : Nat} {bytes : List Byte} (ht : takesFrames s) (hn : 1 ≤ n) (hbad : badBitCount n = true) :
    exec (.badFrame n bytes) s = .next (writeRecord (if 8 ≤ n then bytes.getD 0 0 else 0)
      (if 16 ≤ n then bytes.getD 1 0 else 0) .BAD_FRAME none [] (closeFrame s)) := by
  have hz : (n == 0) = false := beq_eq_false_iff_ne.mpr (by omega)
  change execBadFrame n bytes s = _
  rw [execBadFrame, frameTaken_of_takesFrames ht, hz, if_neg nofun, if_pos hbad]

/-- Settles O5: clause by clause, a frame not taken, check 3 with the length part of check 1, check 1, check 2. -/
theorem framesAreChecked : Obligations.FramesAreChecked := by
  refine ⟨fun i s hi h => exec_notTaken hi (frameTaken_eq_false h), fun i code n f s hrow ht hbad => ?_,
    fun n bytes s ht hn hbad => ?_, fun code f s ht hw hc => ?_⟩
  · obtain ⟨act, hact⟩ := exec_of_frameRow hrow
    rw [hact, onFrame_bad (frameTaken_of_takesFrames ht) hbad.symm, answerStatus_closeFrame]
  · have hcount : badBitCount n = true := by
      by_contra h
      have := (badBitCount_eq_false_iff n).mp (Bool.eq_false_of_not_eq_true h)
      omega
    rw [exec_badFrame ht hn hcount, writeRecord, resultOf_nil]
    rfl
  · change execUnknownCommand code f s = _
    rw [execUnknownCommand, onFrame_of_takesFrames ht hw, hc, if_neg nofun, answerStatus_closeFrame]

/-! ## The record on MISO (10 R155, R163) -/

theorem getD_replyBytes (r : ReplyRecord) (n : Nat) : (replyBytes r).getD n 0 =
    if n = 0 then r.sequenceEcho
    else if n = 1 then r.commandCode
    else if n = 2 then BitVec.ofNat 8 r.status.code
    else if n = 3 then BitVec.ofNat 8 ((r.reason.map Reason.code).getD 0)
    else if n < 20 then r.result.toList.getD (n - 4) 0
    else 0 := by
  match n with
  | 0 | 1 | 2 => rfl
  | 3 => cases h : r.reason <;> simp [replyBytes, h, codeByte]
  | n + 4 =>
    have htail : (replyBytes r).getD (n + 4) 0 = r.result.toList.getD n 0 := rfl
    rw [htail, if_neg (by omega), if_neg (by omega), if_neg (by omega), if_neg (by omega), Nat.add_sub_cancel]
    split
    · rfl
    · exact List.getD_eq_default _ _ (by rw [Vector.length_toList]; omega)

/-- Settles O6: the record as latched, byte by byte; RPY writes nothing. -/
theorem misoCarriesTheRecord : Obligations.MisoCarriesTheRecord := by
  refine ⟨fun s => rfl, fun s r b n hframe hheld => ?_, fun s n hheld => ?_, fun f s ht hw => ?_⟩
  · rw [misoByte, hheld, hframe, ← getD_replyBytes]; rfl
  · rw [misoByte, if_pos hheld]
  · exact onFrame_of_takesFrames (code := 0x01) ht hw _

/-! ## STS (10 R156) -/

/-- Byte 0 of the status: depth, innermost state, sweeping, the links. -/
def statusHead (s : State) : Nat :=
  s.ec.stack.length + 8 * ((innermostState s).map EpochState.code).getD 0 + 32 * bit s.ss.sweeping +
    64 * s.upLink.code + 128 * s.dp.link.code

/-- The fields of STS's report; the last six bytes are reserved. -/
def statusFields (s : State) : List (Nat × Nat) :=
  [(1, statusHead s), (1, s.ip.free.length + 16 * s.ip.retiring.length),
    (3, if s.ss.sweeping then s.ss.position.toNat else 0), (2, s.ss.pass.toNat), (1, s.holds.length),
    (1, s.dp.tracker.length), (1, s.dp.quarantine.length), (6, 0)]

theorem resultOf_statusBytes (s : State) : resultOf (statusBytes s) = resultOf (packed (statusFields s)) := by
  rw [← resultOf_append_zeros _ 6]
  rfl

theorem LinkState.code_eq (l : LinkState) : l.code = if l = .UP then 1 else 0 := by cases l <;> rfl

theorem innermostCode_lt (s : State) : ((innermostState s).map EpochState.code).getD 0 < 4 := by
  cases innermostState s with
  | none => decide
  | some st => exact EpochState.code_lt st

theorem exec_sts_reports (ht : takesFrames s) (hw : wholeFrame f 0) :
    exec (.sts f) s = .next (answered s 0x02 f .OK none (resultOf (statusBytes s))) := by
  change execSts f s = _
  rw [execSts, onFrame_of_takesFrames ht hw]
  rfl

/-- Settles O7: each item lies in its field. -/
theorem statusIsReported : Obligations.StatusIsReported := by
  intro f s ht hw hdepth hfree hretiring hholds htracker hquarantine
  obtain ⟨t, hexec, hok, hres⟩ := answersOk_of_exec (exec_sts_reports ht hw)
  rw [resultOf_statusBytes] at hres
  have hwidth : (packed (statusFields s)).length ≤ 16 := (length_packed _).le
  have hstate := innermostCode_lt s
  have hsweep := bit_lt s.ss.sweeping
  have hup : s.upLink.code < 2 := by cases s.upLink <;> decide
  have hdown : s.dp.link.code < 2 := by cases s.dp.link <;> decide
  have hhead : field t 0 1 = statusHead s := field_packed 0 hres rfl hwidth (by rw [statusHead]; omega)
  have hids : field t 1 1 = s.ip.free.length + 16 * s.ip.retiring.length :=
    field_packed 1 hres rfl hwidth (by omega)
  have hposition : (if s.ss.sweeping then s.ss.position.toNat else 0) < 256 ^ 3 := by
    have := s.ss.position.isLt
    split <;> omega
  have hbit : (if s.ss.sweeping then 1 else 0) = bit s.ss.sweeping := rfl
  refine ⟨t, hexec, hok, ?_⟩
  simp only [← LinkState.code_eq, hbit, bits, hhead, hids, statusHead]
  refine ⟨by omega, by omega, by omega, by omega, by omega, by omega, by omega,
    field_packed 2 hres rfl hwidth hposition, field_packed 3 hres rfl hwidth (s.ss.pass.isLt.trans_eq (by decide)),
    field_packed 4 hres rfl hwidth (by omega), field_packed 5 hres rfl hwidth (by omega),
    field_packed 6 hres rfl hwidth (by omega), field_packed 7 hres rfl hwidth (by decide)⟩

/-! ## RCF (10 R157) -/

theorem itemValue_none {c : ConfigItems} {item : Nat} (h : 5 < item) : itemValue c item = none := by
  obtain ⟨k, rfl⟩ : ∃ k, item = k + 6 := ⟨item - 6, by omega⟩
  rfl

theorem exec_rcf_bad (ht : takesFrames s) (hw : wholeFrame f 1) (h : 5 < argument f 0 1) :
    exec (.rcf f) s = .next (answered s 0x03 f .BAD_ARGUMENT none noResult) := by
  change execRcf f s = _
  rw [execRcf, onFrame_of_takesFrames ht hw, itemValue_none h]
  exact answerStatus_closeFrame _

theorem exec_rcf_reports {v : Nat} (ht : takesFrames s) (hw : wholeFrame f 1)
    (hv : itemValue s.cfg (argument f 0 1) = some v) : exec (.rcf f) s =
      .next (answered s 0x03 f .OK none (resultOf (packed [(1, argument f 0 1), (3, v), (12, 0)]))) := by
  change execRcf f s = _
  rw [execRcf, onFrame_of_takesFrames ht hw, closeFrame_cfg, hv]
  refine (answerOk_closeFrame _).trans ?_
  rw [← resultOf_append_zeros _ 12]
  rfl

/-- The report of an item with a value in range. -/
theorem exec_rcf_item {v : Nat} (ht : takesFrames s) (hw : wholeFrame f 1)
    (hv : itemValue s.cfg (argument f 0 1) = some v) (hitem : argument f 0 1 ≤ 5) (hlt : v < 2 ^ 24) :
    ∃ t, exec (.rcf f) s = .next t ∧ answersOk s 0x03 f t ∧ field t 0 1 = argument f 0 1 ∧ field t 4 12 = 0 ∧
      field t 1 3 = v := by
  obtain ⟨t, hexec, hok, hres⟩ := answersOk_of_exec (exec_rcf_reports ht hw hv)
  have hwidth : (packed [(1, argument f 0 1), (3, v), (12, 0)]).length ≤ 16 := (length_packed _).le
  exact ⟨t, hexec, hok, field_packed 0 hres rfl hwidth (by omega), field_packed 2 hres rfl hwidth (by decide),
    field_packed 1 hres rfl hwidth (by omega)⟩

theorem itemValue_lt {v : Nat} {item : Nat} (hc : configLawful s) (hv : itemValue s.cfg item = some v) :
    v < 2 ^ 24 := by
  obtain ⟨hhold, -, hdown, hwater⟩ := hc
  rw [Config.ringSlots] at hwater
  unfold itemValue at hv
  split at hv <;> cases hv
  · cases s.cfg.capturePolicy <;> decide
  · omega
  · omega
  · omega
  · exact s.cfg.alertMask.isLt.trans (by decide)
  · exact s.cfg.lineEnable.isLt.trans (by decide)

/-- Settles O8: the item's code and its value, by the item. -/
theorem configurationIsRead : Obligations.ConfigurationIsRead := by
  intro f s ht hw hc
  refine ⟨exec_rcf_bad ht hw, fun hitem => ?_⟩
  obtain ⟨v, hv⟩ : ∃ v, itemValue s.cfg (argument f 0 1) = some v := by
    generalize argument f 0 1 = item at hitem
    match item, hitem with
    | 0, _ | 1, _ | 2, _ | 3, _ | 4, _ | 5, _ => exact ⟨_, rfl⟩
  obtain ⟨t, hexec, hok, hcode, hrest, hvalue⟩ := exec_rcf_item ht hw hv hitem (itemValue_lt hc hv)
  have item {k w : Nat} (hk : itemValue s.cfg k = some w) (h : argument f 0 1 = k) : field t 1 3 = w := by
    rw [h, hk] at hv
    exact hvalue.trans (Option.some_inj.mp hv).symm
  exact ⟨t, hexec, hok, hcode, hrest, item rfl, item rfl, item rfl, item rfl, item rfl, item rfl⟩

/-! ## WCF (10 R158) -/

theorem writeItem_rejects {c : ConfigItems} {item value : Nat} (h : 5 < item ∨ (item = 0 ∧ 2 < value) ∨
    (item = 1 ∧ 65535 < value) ∨ (item = 2 ∧ (value = 0 ∨ 65535 < value)) ∨ (item = 3 ∧ 2048 < value) ∨
    (item = 4 ∧ 2 ^ 17 ≤ value) ∨ (item = 5 ∧ 4 ≤ value)) : writeItem c item value = none := by
  rcases h with h | ⟨rfl, h⟩ | ⟨rfl, h⟩ | ⟨rfl, h⟩ | ⟨rfl, h⟩ | ⟨rfl, h⟩ | ⟨rfl, h⟩
  · obtain ⟨k, rfl⟩ : ∃ k, item = k + 6 := ⟨item - 6, by omega⟩
    rfl
  · obtain ⟨k, rfl⟩ : ∃ k, value = k + 3 := ⟨value - 3, by omega⟩
    rfl
  · exact if_neg (by omega)
  · exact if_neg (by omega)
  · exact if_neg (by simp only [Config.ringSlots]; omega)
  · exact if_neg (by omega)
  · exact if_neg (by omega)

theorem exec_wcf_rejects (ht : takesFrames s) (hw : wholeFrame f 4)
    (h : writeItem s.cfg (argument f 0 1) (argument f 1 3) = none) :
    exec (.wcf f) s = .next (answered s 0x04 f .BAD_ARGUMENT none noResult) := by
  change execWcf f s = _
  rw [execWcf, onFrame_of_takesFrames ht hw, closeFrame_cfg, h]
  exact answerStatus_closeFrame _

/-- An item written leaves the frame alone. -/
theorem applyItem_closeFrame (item : Nat) (cfg : ConfigItems) (s : State) :
    applyItem item cfg (closeFrame s) = closeFrame (applyItem item cfg s) := by
  unfold applyItem
  split
  · rfl
  · split <;> rfl

theorem exec_wcf_writes {item value : Nat} {cfg : ConfigItems} (ht : takesFrames s) (hw : wholeFrame f 4)
    (hi : argument f 0 1 = item) (hv : argument f 1 3 = value) (h : writeItem s.cfg item value = some cfg) :
    exec (.wcf f) s = .next (answered (applyItem item cfg s) 0x04 f .OK none noResult) := by
  change execWcf f s = _
  rw [execWcf, onFrame_of_takesFrames ht hw, closeFrame_cfg, hi, hv, h]
  change answerOk 0x04 f [] (applyItem item cfg (closeFrame s)) = _
  rw [applyItem_closeFrame, answerOk_empty_closeFrame]

/-- Settles O9: the values that are rejected, then each item written. -/
theorem configurationIsWritten : Obligations.ConfigurationIsWritten := by
  intro f s ht hw
  refine ⟨fun h => exec_wcf_rejects ht hw (writeItem_rejects h), fun hi hv => ?_, fun hi hv => ?_,
    fun hi hlo hhi => ?_, fun hi hv => ?_, fun hi hv => ?_, fun hi hv => ?_⟩
  · generalize hval : argument f 1 3 = value at hv ⊢
    match value, hv with
    | 0, _ | 1, _ | 2, _ => exact exec_wcf_writes ht hw hi hval rfl
  · exact exec_wcf_writes ht hw hi rfl (if_pos hv)
  · exact exec_wcf_writes ht hw hi rfl (if_pos ⟨by omega, hhi⟩)
  · exact exec_wcf_writes ht hw hi rfl (if_pos hv)
  · exact ⟨_, exec_wcf_writes ht hw hi rfl (if_pos hv), rfl, alertRight_of_evaluated rfl⟩
  · exact exec_wcf_writes ht hw hi rfl (if_pos (by omega))

end

/-! ## Reset (10 R162) -/

/-- Settles O60: law by law. -/
theorem lawsHoldAtReset : Obligations.LawsHoldAtReset := by
  have htables : tablesLawful State.reset := ⟨rfl, rfl, workTablesLawful_reset⟩
  exact ⟨⟨Nat.zero_le _, Nat.zero_le _⟩, rfl, alertRight_of_evaluated rfl, .refl _,
    ⟨nofun, fun _ => rfl, nofun, nofun⟩, ⟨Nat.zero_le _, trivial, nofun, .nil, nofun⟩,
    ⟨nofun, nofun, nofun⟩, fun h => absurd rfl h, ⟨rfl, rfl⟩, waterLawful_reset, fun _ => ⟨nofun, nofun⟩, htables,
    regionTableLawful_reset.1, regionTableLawful_reset.2, by unfold configLawful; decide, nofun,
    fun _ => ⟨rfl, rfl, rfl⟩, fun _ => ⟨rfl, rfl⟩, nofun, nofun, nofun⟩

end Sys2Proof.Machine
end


section
/-! PROOFS. The watch unit's commands and marks (08 R138 to R140), resets (10 R160 to R162) and control lines
(10 R159, 02 R25). -/

namespace Sys2Proof.Machine

open Sys2Proof.Safety

/-! ## WTS and RLS (08 R139, R140) -/

section
variable {s : State} {f : Frame}

theorem argument_lt (f : Frame) (offset n : Nat) : argument f offset n < 256 ^ n := by
  have hlen : ((f.tail.drop offset).take n).length ≤ n := List.length_take_le _ _
  have key : ∀ l : List Byte, leNat l < 256 ^ l.length := by
    intro l
    induction l with
    | nil => exact Nat.one_pos
    | cons b r ih =>
      have := b.isLt
      rw [leNat, List.length_cons, Nat.pow_succ]
      omega
  exact (key _).trans_le (Nat.pow_le_pow_right (by decide) hlen)

theorem exec_wts_bad (ht : takesFrames s) (hw : wholeFrame f 16) (hb : watchArgumentsBad f) :
    exec (.wts f) s = .next (answered s 0x40 f .BAD_ARGUMENT none noResult) := by
  change execWts f s = _
  rw [execWts, onFrame_of_takesFrames ht hw, if_pos (show _ ∨ Config.lineSpace ≤ _ ∨ _ from hb),
    answerStatus_closeFrame]

/-- The watch that a WTS writes. -/
def watchWritten (f : Frame) : Watch :=
  ⟨argument f 1 1 % 2 == 1, BitVec.ofNat 34 (argument f 2 5), Fin.ofNat 16 (argument f 7 1),
    BitVec.ofNat 32 (argument f 8 4), BitVec.ofNat 32 (argument f 12 4)⟩

theorem exec_wts_writes {k : Fin 4} (ht : takesFrames s) (hw : wholeFrame f 16) (hb : ¬ watchArgumentsBad f)
    (hk : argument f 0 1 = k.val) :
    exec (.wts f) s = .next (answered (setWatch k (watchWritten f) s) 0x40 f .OK none noResult) := by
  have hindex : Fin.ofNat 4 (argument f 0 1) = k := by rw [hk, Fin.ofNat_val_eq_self]
  change execWts f s = _
  rw [execWts, onFrame_of_takesFrames ht hw, if_neg (show ¬ (_ ∨ Config.lineSpace ≤ _ ∨ _) from hb),
    hindex]
  exact answerOk_empty_closeFrame (s := setWatch k (watchWritten f) s)

theorem exec_rls_bad (ht : takesFrames s) (hw : wholeFrame f 9)
    (hb : ruleArgumentsOk f = false ∨ actionOfCode (argument f 8 1) = none) :
    exec (.rls f) s = .next (answered s 0x42 f .BAD_ARGUMENT none noResult) := by
  change execRls f s = _
  rw [execRls, onFrame_of_takesFrames ht hw]
  rcases hb with hb | hb
  · simp only [hb, answerStatus_closeFrame]
  · cases ruleArgumentsOk f <;> simp only [hb, answerStatus_closeFrame]

/-- The rule that an RLS with this action writes. -/
def ruleWritten (f : Frame) (a : EpochOp) : Rule :=
  ⟨argument f 1 1 % 2 == 1, (memberArguments f).map fun i => ⟨Fin.ofNat 4 i, none⟩, argument f 6 2, a,
    argument f 1 1 / 2 % 2 == 1⟩

theorem exec_rls_writes {k : Fin 2} {a : EpochOp} (ht : takesFrames s) (hw : wholeFrame f 9)
    (hok : ruleArgumentsOk f = true) (ha : actionOfCode (argument f 8 1) = some a) (hk : argument f 0 1 = k.val) :
    exec (.rls f) s = .next (answered (setRule k (ruleWritten f a) s) 0x42 f .OK none noResult) := by
  have hindex : Fin.ofNat 2 (argument f 0 1) = k := by rw [hk, Fin.ofNat_val_eq_self]
  change execRls f s = _
  rw [execRls, onFrame_of_takesFrames ht hw]
  simp only [hok, ha, hindex]
  exact answerOk_empty_closeFrame (s := setRule k (ruleWritten f a) s)

theorem actionOfCode_eq_none_iff (n : Nat) : actionOfCode n = none ↔ 3 < n := by
  match n with
  | 0 | 1 | 2 | 3 => exact ⟨nofun, by omega⟩
  | n + 4 => exact ⟨fun _ => by omega, fun _ => rfl⟩

theorem code_of_actionOfCode {n : Nat} {a : EpochOp} (h : actionOfCode n = some a) : a.code = n := by
  match n with
  | 0 | 1 | 2 | 3 => cases h; rfl
  | n + 4 => cases h

/-- The members of an RLS are the bytes that its count gives. -/
theorem memberArguments_nodup_iff (f : Frame) : (memberArguments f).Nodup ↔
    ¬ ∃ i j, i < j ∧ j < argument f 2 1 ∧ argument f (3 + i) 1 = argument f (3 + j) 1 := by
  rw [List.nodup_iff_pairwise_ne, List.pairwise_iff_getElem]
  simp only [memberArguments, List.length_map, List.length_range, List.getElem_map, List.getElem_range]
  constructor
  · rintro h ⟨i, j, hij, hj, heq⟩
    exact h i j (hij.trans hj) hj hij heq
  · exact fun h i j _ hj hij heq => h ⟨i, j, hij, hj, heq⟩

/-- The arguments 08 R140 rejects are those that fail the range checks or name no action. -/
theorem ruleArgumentsBad_iff (f : Frame) :
    ruleArgumentsBad f ↔ ruleArgumentsOk f = false ∨ actionOfCode (argument f 8 1) = none := by
  have hmembers : (∀ i ∈ memberArguments f, i ≤ 3) ↔ ¬ ∃ i, i < argument f 2 1 ∧ 3 < argument f (3 + i) 1 := by
    simp only [memberArguments, List.mem_map, List.mem_range, forall_exists_index, and_imp,
      forall_apply_eq_imp_iff₂, not_exists, not_and, not_lt]
  rw [actionOfCode_eq_none_iff, ← Bool.not_eq_true, ruleArgumentsOk]
  simp only [Bool.and_eq_true, decide_eq_true_eq, bne_iff_ne, List.all_eq_true, hmembers, memberArguments_nodup_iff,
    ruleArgumentsBad]
  by_cases h1 : ∃ i, i < argument f 2 1 ∧ 3 < argument f (3 + i) 1
  · simp only [h1, true_or, or_true, not_true_eq_false, and_false, false_and, not_false_eq_true]
  · by_cases h2 : ∃ i j, i < j ∧ j < argument f 2 1 ∧ argument f (3 + i) 1 = argument f (3 + j) 1
    · simp only [h2, true_or, or_true, not_true_eq_false, and_false, false_and, not_false_eq_true]
    · simp only [h1, h2, false_or, not_false_eq_true, and_true]
      omega

/-- Settles O20: the arguments' ranges, and the fields written. -/
theorem watchesAndRulesAreWritten : Obligations.WatchesAndRulesAreWritten := by
  refine ⟨fun f s ht hw => ⟨exec_wts_bad ht hw, fun hb k hk => ?wts⟩,
    fun f s ht hw => ⟨fun hb => exec_rls_bad ht hw ((ruleArgumentsBad_iff f).mp hb), fun hb k hk => ?rls⟩⟩
  case wts =>
    have hsame : (setWatch k (watchWritten f) s).wu.watches[k] = watchWritten f := by simp [setWatch]
    obtain ⟨-, hline, hword⟩ : argument f 0 1 ≤ 3 ∧ argument f 2 5 < 2 ^ 34 ∧ argument f 7 1 ≤ 15 := by
      rw [watchArgumentsBad] at hb; omega
    have hvalue := argument_lt f 8 4
    have hmask := argument_lt f 12 4
    refine ⟨_, exec_wts_writes ht hw hb hk, rfl, ?_⟩
    simp only [answered, hsame]
    simp only [watchWritten, beq_iff_eq, true_and, Fin.val_ofNat, BitVec.toNat_ofNat]
    refine ⟨Nat.mod_eq_of_lt hline, Nat.mod_eq_of_lt (by omega), Nat.mod_eq_of_lt (by omega),
      Nat.mod_eq_of_lt (by omega), fun j hj => ?_, fun j => ?_⟩
    · simp [setWatch, Fin.val_ne_of_ne hj.symm]
    · simp only [setWatch, Fin.getElem_fin, Vector.getElem_map, Rule.forgetWatch]
  case rls =>
    rw [ruleArgumentsBad_iff, not_or, Bool.not_eq_false] at hb
    obtain ⟨a, ha⟩ := Option.ne_none_iff_exists'.mp hb.2
    have hsame : (setRule k (ruleWritten f a) s).wu.rules[k] = ruleWritten f a := by simp [setRule]
    refine ⟨_, exec_rls_writes ht hw hb.1 ha hk, rfl, ?_⟩
    simp only [answered, hsame]
    simp only [ruleWritten, beq_iff_eq, true_and]
    refine ⟨?_, code_of_actionOfCode ha, fun j hj => ?_⟩
    · have hok := hb.1
      simp only [ruleArgumentsOk, Bool.and_eq_true, List.all_eq_true, decide_eq_true_eq] at hok
      obtain ⟨⟨⟨-, hmembers⟩, -⟩, -⟩ := hok
      rw [List.map_map, memberArguments, List.map_map]
      refine List.map_congr_left fun i hi => ?_
      have hle := hmembers _ (List.mem_map_of_mem hi)
      simp only [Function.comp_apply, Fin.val_ofNat, Prod.mk.injEq, and_true]
      exact Nat.mod_eq_of_lt (by omega)
    · simp [setRule, Fin.val_ne_of_ne hj.symm]

/-! ## The marks (08 R138) -/

theorem clearMark_eq {r : Rule} {n : Nat} {m : Member} (h : r.members[n]? = some m) :
    r.clearMark n = { r with members := r.members.set n ⟨m.watch, none⟩ } := by
  have hmodify : r.members.modify n (fun m => { m with mark := none }) = r.members.set n ⟨m.watch, none⟩ := by
    refine List.ext_getElem? fun i => ?_
    rw [List.getElem?_modify, List.getElem?_set]
    by_cases hi : n = i
    · subst hi
      obtain ⟨hlt, hget⟩ := List.getElem?_eq_some_iff.mp h
      simp [hlt, hget]
    · simp [hi]
  rw [Rule.clearMark, hmodify]

/-- Settles O22: by the mark's expiry against the clock. -/
theorem seenMarksExpire : Obligations.SeenMarksExpire := by
  refine fun k n s => ⟨fun w x hm => ?_, fun hm => ?_⟩
  · have hexpiry : markExpiry s k n.val = some x := by rw [markExpiry, hm]; rfl
    refine ⟨fun hx => ?_, fun hx => ?_⟩
    · change execSeenMarkExpiry k n s = _
      simp only [execSeenMarkExpiry, hexpiry, if_pos hx, clearMark_eq hm]
      rfl
    · change execSeenMarkExpiry k n s = _
      simp only [execSeenMarkExpiry, hexpiry, if_neg (not_le.mpr hx)]
  · have hexpiry : markExpiry s k n.val = none := by
      rw [markExpiry, Option.bind_eq_none_iff]
      rintro ⟨w, x⟩ hw
      cases x with
      | none => rfl
      | some x => exact absurd hw (hm w x)
    change execSeenMarkExpiry k n s = _
    simp only [execSeenMarkExpiry, hexpiry]

end

/-! ## Resets (10 R160 to R162) -/

/-- Settles O23: item by item. -/
theorem resetsReturnEveryItem : Obligations.ResetsReturnEveryItem := by
  rintro i s (rfl | rfl)
  · rfl
  · rfl

section
variable {s : State} {f : Frame} {b : Bool}

/-- The device at the end of a reset, before its links come up: held no longer, its filters at rest (10 R162). -/
def released (s : State) : State :=
  { s with
    held := false
    pins := { s.pins with mark := s.pins.mark.restart s.now, undo := s.pins.undo.restart s.now } }

/-- The links that a reset's end brings up, with their LINK_CHANGE events, by the two indications (10 R162). -/
theorem endReset_cases (b : Bool) (s : State) (hu hd : Bool) (hup : s.pins.upIndication = hu)
    (hdown : s.pins.downIndication = hd) : endReset b s = match hu, hd, b with
      | false, false, _ => released s
      | true, false, _ => upstreamUp (released s)
      | false, true, _ => downstreamUp (released s)
      | true, true, true => downstreamUp (upstreamUp (released s))
      | true, true, false => upstreamUp (downstreamUp (released s)) := by
  cases b <;> cases hu <;> cases hd <;>
    simp [endReset, upIfShown, upstreamUp, downstreamUp, released, postEvent, hup, hdown]

theorem exec_resetEnd (h : s.held = true) : exec (.resetEnd b) s = .next (endReset b s) := by
  change execResetEnd b s = _
  rw [execResetEnd, if_pos h]

theorem endReset_frame (b : Bool) (s : State) : endReset b s = { s with
    held := false
    pins := { s.pins with
      mark := ⟨s.pins.mark.high, if s.pins.mark.high then .HIGH else .LOW, s.now⟩
      undo := ⟨s.pins.undo.high, if s.pins.undo.high then .HIGH else .LOW, s.now⟩ }
    upLink := if s.pins.upIndication then .UP else s.upLink
    dp := { s.dp with link := if s.pins.downIndication then .UP else s.dp.link }
    eq := (endReset b s).eq } := by
  cases hu : s.pins.upIndication <;> cases hd : s.pins.downIndication <;> cases b <;>
    rw [endReset_cases _ s _ _ hu hd] <;> rfl

/-- The details of the events that a reset's end posts, by the two indications, in the operand's order. -/
def linkDetails (b hu hd : Bool) : List (Bool × Nat) :=
  (if b then [(hu, 256), (hd, 257)] else [(hd, 257), (hu, 256)]).filter (·.1)

/-- LINK_CHANGE events posted one after another on a queue. -/
def linkChanges (s : State) (l : List (Bool × Nat)) (q : EventQueue) : EventQueue :=
  l.foldl (fun q x => posted { s with eq := q } .LINK_CHANGE none none x.2) q

theorem endReset_events (b : Bool) (s : State) :
    (endReset b s).eq = linkChanges s (linkDetails b s.pins.upIndication s.pins.downIndication) s.eq := by
  cases hu : s.pins.upIndication <;> cases hd : s.pins.downIndication <;> cases b <;>
    rw [endReset_cases _ s _ _ hu hd] <;> rfl

/-- The queue of a DRS: at most two events, all accepted. -/
theorem linkChanges_reset (b hu hd : Bool) :
    let q := linkChanges State.reset (linkDetails b hu hd) ⟨[], 0, 0, false⟩
    q.alert = alertCondition q.queue q.lost 0x1FFFF#17 ∧ q.lost = 0 ∧ q.counter.toNat = q.queue.length ∧
      q.queue.map (fun e => (e.kind, e.detail.toNat, e.epochSequence, e.line)) =
        (linkDetails b hu hd).map fun x => (.LINK_CHANGE, x.2, none, none) := by
  cases b <;> cases hu <;> cases hd <;> exact ⟨rfl, rfl, rfl, rfl⟩

theorem exec_drs (ht : takesFrames s) (hw : wholeFrame f 0) :
    exec (.drs f b) s = .next (endReset b (resetDevice false (closeFrame s))) := by
  change execDrs f b s = _
  rw [execDrs, onFrame_of_takesFrames ht hw]

/-- Settles O24: the links come up by their indications, in the operand's order. -/
theorem resetsEnd : Obligations.ResetsEnd := by
  refine ⟨fun b s h => ?_, fun b s h => ?_, fun f b s ht hw => ?_⟩
  · change execResetEnd b s = _
    rw [execResetEnd, if_neg (by simp [h])]
  · refine ⟨_, exec_resetEnd h, endReset_frame b s, fun hu hd => ?_, fun hu hd => ?_, fun hu hd => ?_, fun hu hd => ?_⟩
    · cases b <;> rw [endReset_events, hu, hd] <;> rfl
    · cases b <;> rw [endReset_events, hu, hd] <;> rfl
    · cases b <;> rw [endReset_events, hu, hd] <;> rfl
    · cases b <;> rw [endReset_events, hu, hd] <;> rfl
  · refine ⟨_, exec_drs ht hw, endReset_frame b _, ?_⟩
    have hevents : (endReset b (resetDevice false (closeFrame s))).eq = linkChanges State.reset
        (linkDetails b s.pins.upIndication s.pins.downIndication) ⟨[], 0, 0, false⟩ := endReset_events b _
    obtain ⟨halert, hlost, hcounter, hqueue⟩ := linkChanges_reset b s.pins.upIndication s.pins.downIndication
    rw [← hevents] at halert hlost hcounter hqueue
    refine ⟨alertRight_of_evaluated ?_, hlost, hcounter, hqueue⟩
    rw [endReset_frame]
    exact halert

end

/-! ## Control lines (10 R159) -/

section
variable {s : State} {l : ControlLine}

theorem filterStood_eq_true_iff {st : FilterState} : filterStood s l st = true ↔
    s.held = false ∧ (lineFilter s l).state = st ∧ (lineFilter s l).since + 1 ≤ s.now := by
  simp [filterStood, and_assoc]

/-- Settles O25: by the filter's state and its age. -/
theorem linesAreFiltered : Obligations.LinesAreFiltered := by
  refine ⟨fun l high s => ⟨fun h => ?_, fun h hheld => ?_, fun st h hheld hst => ?_⟩,
    fun l s => ⟨fun hheld hst hage => ?_, fun h => ?_⟩⟩
  · change execControlLineLevelChange l high s = _
    rw [execControlLineLevelChange, if_pos h]
  · change execControlLineLevelChange l high s = _
    rw [execControlLineLevelChange, if_neg h, if_pos hheld]
  · have hfilter : filterAtLevel (lineFilter s l).state high = st := by
      simp only [List.mem_cons, Prod.mk.injEq, List.not_mem_nil, or_false] at hst
      rcases hst with ⟨h1, rfl, rfl⟩ | ⟨h1, rfl, rfl⟩ | ⟨h1, rfl, rfl⟩ | ⟨h1, rfl, rfl⟩ <;> rw [h1] <;> rfl
    change execControlLineLevelChange l high s = _
    rw [execControlLineLevelChange, if_neg h, if_neg (by simp [hheld]), hfilter]
  · change execFilterReArm l s = _
    rw [execFilterReArm, if_pos (filterStood_eq_true_iff.mpr ⟨hheld, hst, hage⟩)]
    rfl
  · change execFilterReArm l s = _
    rw [execFilterReArm, if_neg]
    rw [filterStood_eq_true_iff]
    rintro ⟨hheld, hst, hage⟩
    rcases h with h | h | h
    · simp [h] at hheld
    · exact h hst
    · omega

end

end Sys2Proof.Machine
end


section
/-! PROOFS. The drain set, and how an epoch request is accepted (02 R24 to R33, 05 R80 to R82; O13, O14, O26). -/

namespace Sys2Proof.Machine
open Sys2Proof.Safety

/-! ## The drain set (05 R80) -/

section
variable {s t : State}

theorem drainSet_congr (hl : t.lht = s.lht) (hr : t.regions = s.regions) (hc : t.contexts = s.contexts)
    (hd : t.dp.tracker = s.dp.tracker) : drainSet t = drainSet s := by
  have hwaits : drainWaitsFor t = drainWaitsFor s := funext fun st => by
    cases st <;> simp only [drainWaitsFor, contextOf, hc, hd]
  have hbefore : ∀ c, beforeSpaceWait t c = beforeSpaceWait s c := fun c => by
    simp only [beforeSpaceWait, inSpaceWait, contextOf, hc]
  simp only [drainSet, hl, hwaits, hbefore, isJournalLine_congr hr]

theorem drainWaitsFor_iff (st : Step) : drainWaitsFor s st = true ↔ drainable s st := by
  cases st with
  | host g =>
    rcases hc : contextOf s g with - | ⟨_ | ⟨m, d⟩, l, st, _, _, _⟩ <;> simp [drainWaitsFor, drainable, hc, or_assoc]
  | orphan g => rcases he : tableGet s.dp.tracker g.val with - | e <;> simp [drainWaitsFor, drainable, he]
  | restore slot => simp [drainWaitsFor, drainable]

theorem inSpaceWait_iff (g : HostTag) : inSpaceWait s g = true ↔ waitsForSpace s (.host g) := by
  rcases hc : contextOf s g with - | c <;> simp [inSpaceWait, waitsForSpace, hc]

/-- A drainable step is no write in SPACE_WAIT. -/
theorem not_waitsForSpace_of_drainable {st : Step} (h : drainable s st) : ¬ waitsForSpace s st := by
  rintro ⟨g, c, rfl, hc, hstate⟩
  rcases h with ⟨g', c', m, d, hg, hc', -, hstate'⟩ | ⟨g', e, hg, -⟩
  · obtain rfl := Step.host.inj hg
    obtain rfl : c = c' := Option.some.inj (hc.symm.trans hc')
    simp [hstate] at hstate'
  · cases hg

theorem mem_takeWhile_iff {α : Type} {p : α → Bool} {x : α} {l : List α} :
    x ∈ l.takeWhile p ↔ ∃ before behind, l = before ++ x :: behind ∧ (∀ y ∈ before, p y = true) ∧ p x = true := by
  induction l with
  | nil => simp
  | cons y l ih =>
    constructor
    · intro h
      rw [List.takeWhile_cons] at h
      split at h
      next hy =>
        rcases List.mem_cons.mp h with rfl | h
        · exact ⟨[], l, rfl, by simp, hy⟩
        · obtain ⟨before, behind, rfl, hbefore, hx⟩ := ih.mp h
          exact ⟨y :: before, behind, rfl, List.forall_mem_cons.mpr ⟨hy, hbefore⟩, hx⟩
      next => simp at h
    · rintro ⟨before, behind, hl, hbefore, hx⟩
      cases before with
      | nil =>
        obtain ⟨rfl, rfl⟩ := List.cons.inj hl
        simp [hx]
      | cons z before =>
        obtain ⟨rfl, rfl⟩ := List.cons.inj hl
        rw [List.takeWhile_cons, if_pos (hbefore y (by simp))]
        exact List.mem_cons_of_mem _ (ih.mpr ⟨before, behind, rfl, fun z hz => hbefore z (by simp [hz]), hx⟩)

/-- A step that does not end the stretch of a chain a drain waits for. -/
def letsBehind (s : State) : Step → Bool
  | .host t => !inSpaceWait s t
  | .restore _ => true
  | .orphan _ => true

theorem letsBehind_iff (st : Step) : letsBehind s st = true ↔ ¬ waitsForSpace s st := by
  cases st with
  | host g => simp [letsBehind, ← inSpaceWait_iff]
  | restore slot => simp [letsBehind, waitsForSpace]
  | orphan g => simp [letsBehind, waitsForSpace]

theorem beforeSpaceWait_eq (c : List Step) : beforeSpaceWait s c = c.takeWhile (letsBehind s) := by
  unfold beforeSpaceWait
  congr with st

theorem mem_beforeSpaceWait_iff {st : Step} {c : List Step} : st ∈ beforeSpaceWait s c ↔
    ∃ before behind, c = before ++ st :: behind ∧ (∀ x ∈ before, ¬ waitsForSpace s x) ∧ ¬ waitsForSpace s st := by
  simp only [beforeSpaceWait_eq, mem_takeWhile_iff, letsBehind_iff]

end

/-- Settles O14. -/
theorem drainSetMembers : Obligations.DrainSetMembers := by
  intro s st
  rw [drainSet, List.mem_flatMap]
  refine exists_congr fun p => and_congr_right fun _ => ?_
  split
  next hj =>
    rw [List.mem_filter, mem_beforeSpaceWait_iff, drainWaitsFor_iff]
    constructor
    · rintro ⟨⟨before, behind, hp, hbefore, -⟩, hst⟩
      exact ⟨before, behind, hp, hj, hbefore, hst⟩
    · rintro ⟨before, behind, hp, -, hbefore, hst⟩
      exact ⟨⟨before, behind, hp, hbefore, not_waitsForSpace_of_drainable hst⟩, hst⟩
  next hj => simp [hj]

/-! ## Requests accepted (02 R27 to R33) -/

section
variable {s : State} {e : Epoch} {r : List Epoch} {o : Origin}

theorem innermostState_of_openOrEmpty (h : openOrEmpty s) : innermostState s = none ∨ innermostState s = some .OPEN := by
  rcases h with h | h
  · exact .inl (by simp [innermostState, innermost, h])
  · exact .inr h

theorem refusalOf_mark_none (hopen : openOrEmpty s) (hdepth : s.ec.stack.length < 4) (hfree : s.ip.free ≠ [])
    (hcounter : s.ec.counter.toNat ≠ 4294967295) : refusalOf s .MRK = none := by
  have hdepth' : ¬ Config.maxDepth ≤ s.ec.stack.length := Nat.not_le.mpr hdepth
  rcases innermostState_of_openOrEmpty hopen with h | h <;>
    simp [refusalOf, h, hdepth', hfree, eq_lastSequence_iff, hcounter]

theorem refusalOf_closing_none {op : EpochOp} (hop : op ≠ .MRK) (hstack : s.ec.stack = e :: r)
    (he : e.state = .OPEN ∨ (e.state = .HALTED ∧ op ≠ .CMT)) (hlink : op = .RBK → s.dp.link = .UP) :
    refusalOf s op = none := by
  have hlink' : op = .RBK → s.dp.link ≠ .DOWN := fun h => by simp [hlink h]
  rcases he with he | ⟨he, hc⟩
  · simpa [refusalOf, innermostState_of_stack hstack, he, hop, hstack] using hlink'
  · simpa [refusalOf, innermostState_of_stack hstack, he, hop, hc, hstack] using hlink'

theorem openEpoch_eq {own : Ident} {rest : List Ident} (hfree : s.ip.free = own :: rest) : openEpoch o s = { s with
    ec := { s.ec with
      stack := ⟨s.ec.counter + 1, s.ec.stack.length + 1, [own], s.jr.head, 0, .OPEN, none, false, o, 0⟩ :: s.ec.stack
      counter := s.ec.counter + 1 }
    ip := { s.ip with free := rest }
    eq := posted s .OPENED (some (s.ec.counter + 1)) none (s.ec.stack.length + 1 + 16 * own.toNat + 256 * o.code) } := by
  simp only [openEpoch, hfree]
  rfl

/-- An accepted closing request makes the innermost epoch DRAINING (02 R29). -/
def drainingEpoch (op : EpochOp) (e : Epoch) : Epoch :=
  { e with
    state := .DRAINING
    pending := pendingOf op
    restored := if op = .RBK ∧ e.state = .OPEN then 0 else e.restored }

theorem beginClosing_of_stack (op : EpochOp) (hstack : s.ec.stack = e :: r) : beginClosing op o s = { s with
    ec := { s.ec with
      stack := drainingEpoch op e :: r
      closingOrigin := some o
      removedSome := (beginClosing op o s).ec.removedSome } } := by
  simp only [beginClosing, mapInnermost, hstack]
  rfl

theorem drainSet_beginClosing (op : EpochOp) (s : State) : drainSet (beginClosing op o s) = drainSet s :=
  drainSet_congr rfl rfl rfl rfl

/-- The acceptance of a closing request judges its drain at once (02 R29, 05 R81). -/
theorem settle_closing {u : State} (hset : drainSet u = drainSet s) :
    (drainSet s ≠ [] → settle [.drain] u = .next u) ∧ (drainSet s = [] → settle [.drain] u = exec .drainCompletion u) :=
  ⟨fun h => settle_drain_waits (hset ▸ h), fun _ => rfl⟩

theorem commandEpoch_accepted {code : Byte} {op : EpochOp} {f : Frame} (ht : takesFrames s) (hw : wholeFrame f 0)
    (hr : refusalOf s op = none) : commandEpoch code op f s =
      settle (acceptRequest op .MGMT (answered s code f .OK none (resultOf (acceptedBytes op s)))).2
        (acceptRequest op .MGMT (answered s code f .OK none (resultOf (acceptedBytes op s)))).1 := by
  rw [commandEpoch, onFrame_of_takesFrames ht hw]
  simp only [refusalOf_closeFrame, hr]
  rfl

end

/-! ## The reply of an accepted epoch command (02 R28) -/

section
variable {t : State} {e : Epoch}

def openedFields (e : Epoch) : List (Nat × Nat) := [(4, e.sequence.toNat), (1, e.level), (1, idAt e.ids 0), (10, 0)]

theorem resultOf_openedBytes (e : Epoch) : resultOf (openedBytes e) = resultOf (packed (openedFields e)) := by
  rw [← resultOf_append_zeros _ 10]
  congr 1

theorem field_openedBytes (h : t.mp.reply.result = resultOf (openedBytes e)) (hlevel : e.level < 256) :
    field t 0 4 = e.sequence.toNat ∧ field t 4 1 = e.level ∧ field t 5 1 = idAt e.ids 0 ∧ field t 6 10 = 0 := by
  rw [resultOf_openedBytes] at h
  have hwidth : (packed (openedFields e)).length ≤ 16 := (length_packed _).le
  have hid := idAt_lt e.ids 0
  exact ⟨field_packed 0 h rfl hwidth e.sequence.isLt, field_packed 1 h rfl hwidth (by omega),
    field_packed 2 h rfl hwidth (by omega), field_packed 3 h rfl hwidth (by decide)⟩

def closingFields (e : Epoch) : List (Nat × Nat) := [(4, e.sequence.toNat), (1, e.level), (11, 0)]

theorem resultOf_closingBytes (e : Epoch) : resultOf (closingBytes e) = resultOf (packed (closingFields e)) := by
  rw [← resultOf_append_zeros _ 11]
  congr 1

theorem field_closingBytes (h : t.mp.reply.result = resultOf (closingBytes e)) (hlevel : e.level < 256) :
    field t 0 4 = e.sequence.toNat ∧ field t 4 1 = e.level ∧ field t 5 11 = 0 := by
  rw [resultOf_closingBytes] at h
  have hwidth : (packed (closingFields e)).length ≤ 16 := (length_packed _).le
  exact ⟨field_packed 0 h rfl hwidth e.sequence.isLt, field_packed 1 h rfl hwidth (by omega),
    field_packed 2 h rfl hwidth (by decide)⟩

end

/-- Settles O13. -/
theorem markOpensAnEpoch : Obligations.MarkOpensAnEpoch := by
  intro f s own rest ht hw hopen hdepth hfree hcounter
  have hr : refusalOf s .MRK = none := refusalOf_mark_none hopen hdepth (by simp [hfree]) hcounter
  let e := newEpoch s own .MGMT
  let t := openEpoch .MGMT (answered s 0x20 f .OK none (resultOf (openedBytes e)))
  have hexec : exec (.mrk f) s = .next t := by
    change commandEpoch 0x20 .MRK f s = _
    rw [commandEpoch_accepted ht hw hr]
    simp only [acceptRequest, acceptedBytes, if_true, hfree, settle_nil, t, e]
  have hresult : t.mp.reply.result = resultOf (openedBytes e) := by simp [t, answered]
  have hnext : (s.ec.counter + 1).toNat = s.ec.counter.toNat + 1 := by
    have := s.ec.counter.isLt
    change (s.ec.counter.toNat + 1) % 2 ^ 32 = _
    omega
  obtain ⟨hseq, hlevel, hid, hrest⟩ := field_openedBytes hresult (show s.ec.stack.length + 1 < 256 by omega)
  refine ⟨t, hexec, by simp [t, answered], by simp [t, answered], hseq.trans hnext, hlevel, hid, hrest, ?_⟩
  simp only [t]
  rw [openEpoch_eq (s := answered s 0x20 f .OK none (resultOf (openedBytes e))) hfree]
  rfl

/-! ## The control lines ask (10 R159, 02 R25) -/

section
variable {s u : State} {op : EpochOp} {o : Origin}

/-- The request of a line whose filter has settled and whose flag is set. -/
theorem lineRequest_set {flag : Nat} (h : s.cfg.lineEnable.getLsbD flag = true) :
    lineRequest flag op o s = settle (takeRequest op o s).2 (takeRequest op o s).1 := if_pos h

theorem lineRequest_clear {flag : Nat} (h : s.cfg.lineEnable.getLsbD flag = false) : lineRequest flag op o s = .next s :=
  if_neg (by simp [h])

theorem takeRequest_refused {r : Reason} (h : refusalOf s op = some r) : takeRequest op o s = ({ s with
    eq := posted s .REFUSED (innermostSequence s) none (op.code + 16 * o.code + 256 * r.code) }, []) := by
  simp only [takeRequest, h]
  rfl

theorem takeRequest_mark (hr : refusalOf s .MRK = none) :
    takeRequest .MRK o s = (openEpoch o s, []) := by
  simp [takeRequest, hr, acceptRequest]

theorem takeRequest_closing (hop : op ≠ .MRK) (hr : refusalOf s op = none) :
    takeRequest op o s = (beginClosing op o s, [.drain]) := by
  simp [takeRequest, hr, acceptRequest, hop]

end

/-- Settles O26. -/
theorem lineEdgesAskForEpochs : Obligations.LineEdgesAskForEpochs := by
  intro s s1 s2
  have hmark : filterStood s .MARK_N .FALLING = true → exec .markNFallingEdge s = lineRequest 0 .MRK .MARK_LINE s1 :=
    fun h => if_pos h
  have hundo : filterStood s .UNDO_N .FALLING = true → exec .undoNFallingEdge s = lineRequest 1 .RBK .UNDO_LINE s2 :=
    fun h => if_pos h
  refine ⟨fun h => if_neg ?_, fun h => if_neg ?_, fun hheld hfall hsince => ?_, fun hheld hfall hsince => ?_⟩
  · rw [filterStood_eq_true_iff]
    rintro ⟨h1, h2, h3⟩
    rcases h with h | h | h
    · simp [h] at h1
    · exact h h2
    · exact absurd h3 (Nat.not_le.mpr h)
  · rw [filterStood_eq_true_iff]
    rintro ⟨h1, h2, h3⟩
    rcases h with h | h | h
    · simp [h] at h1
    · exact h h2
    · exact absurd h3 (Nat.not_le.mpr h)
  · rw [hmark ((filterStood_eq_true_iff ..).mpr ⟨hheld, hfall, hsince⟩)]
    refine ⟨lineRequest_clear (s := s1), fun hset r hr => ?_, fun hset hopen hdepth hcounter own rest hfree => ?_⟩
    · rw [lineRequest_set (s := s1) hset, takeRequest_refused (s := s1) hr, settle_nil]
      rfl
    · have hr : refusalOf s1 .MRK = none := refusalOf_mark_none (s := s1) hopen hdepth (by simp [s1, hfree]) hcounter
      rw [lineRequest_set (s := s1) hset, takeRequest_mark hr, settle_nil, openEpoch_eq (s := s1) hfree]
      rfl
  · rw [hundo ((filterStood_eq_true_iff ..).mpr ⟨hheld, hfall, hsince⟩)]
    refine ⟨lineRequest_clear (s := s2), fun hset r hr => ?_, fun hset hlink e r hstack he => ?_⟩
    · rw [lineRequest_set (s := s2) hset, takeRequest_refused (s := s2) hr, settle_nil]
      rfl
    · have hr : refusalOf s2 .RBK = none :=
        refusalOf_closing_none (s := s2) (by decide) hstack (he.imp_right fun h => ⟨h, by decide⟩) fun _ => hlink
      have hd := settle_closing (drainSet_beginClosing (o := .UNDO_LINE) .RBK s2)
      rw [lineRequest_set (s := s2) hset, takeRequest_closing (by decide) hr]
      refine ⟨beginClosing .RBK .UNDO_LINE s2, hd.1, hd.2, ?_⟩
      rw [beginClosing_of_stack (s := s2) .RBK hstack]
      simp only [drainingEpoch, true_and]
      rfl

end Sys2Proof.Machine
end


section
/-! PROOFS. A host step at the front of its chain: what a request's access writes (04 R65 to R78), and the watch unit's
part (08 R133 to R136). -/

namespace Sys2Proof.Machine
open Sys2Proof.Safety

/-! ## Writes over writes in the sparse stores -/

section
variable {α : Type} {t : Table α} {k : Nat} {v w : α}

theorem tableSet_tableSet (t : Table α) (k : Nat) (v w : α) : tableSet (tableSet t k v) k w = tableSet t k w := by
  induction t with
  | nil => simp [tableSet]
  | cons p t ih =>
    obtain ⟨j, x⟩ := p
    rcases Nat.lt_trichotomy k j with h | rfl | h
    · simp [tableSet, h]
    · simp [tableSet]
    · simp [tableSet, Nat.not_lt.mpr h.le, Nat.ne_of_gt h, ih]

theorem tableErase_of_get_none (h : tableGet t k = none) : tableErase t k = t := by
  induction t with
  | nil => rfl
  | cons p t ih =>
    obtain ⟨j, x⟩ := p
    by_cases hj : k = j
    · simp [tableGet, hj] at h
    · simp only [tableGet, hj, if_false] at h
      simp [tableErase, hj, ih h]

theorem tableErase_tableSet (h : tableGet t k = none) (v : α) : tableErase (tableSet t k v) k = t := by
  induction t with
  | nil => simp [tableSet, tableErase]
  | cons p t ih =>
    obtain ⟨j, x⟩ := p
    by_cases hj : k = j
    · simp [tableGet, hj] at h
    · simp only [tableGet, hj, if_false] at h
      by_cases hlt : k < j
      · simp [tableSet, tableErase, hlt]
      · simp [tableSet, tableErase, hlt, hj, ih h]

theorem tableErase_tableSet_same (hw : tableWf t = true) (k : Nat) (v : α) :
    tableErase (tableSet t k v) k = tableErase t k := by
  refine tableGet_ext _ _ (tableWf_erase _ _ (tableWf_set _ _ _ hw)) (tableWf_erase _ _ hw) fun j => ?_
  by_cases hj : j = k
  · subst hj; rw [tableGet_erase_same _ _ (tableWf_set _ _ _ hw), tableGet_erase_same _ _ hw]
  · rw [tableGet_erase_other _ hj, tableGet_erase_other _ hj, tableGet_set_other _ _ hj]

theorem tableUpdate_of_get (h : tableGet t k = some v) (g : α → α) : tableUpdate t k g = tableSet t k (g v) := by
  simp [tableUpdate, h]

theorem tableSet_of_get (h : tableGet t k = some v) (hw : tableWf t = true) : tableSet t k v = t := by
  refine tableGet_ext _ _ (tableWf_set _ _ _ hw) hw fun j => ?_
  by_cases hj : j = k
  · subst hj; simp [h]
  · rw [tableGet_set_other _ _ hj]

end

section
variable {lht : Table (List Step)} {line : Line}

theorem putChain_nil : putChain lht line [] = tableErase lht line.toNat := if_pos rfl

theorem putChain_of_ne_nil {c : List Step} (h : c ≠ []) : putChain lht line c = tableSet lht line.toNat c := if_neg h

end

section
variable {s : State} {line : Line}

theorem chainOf_tableSet (h : s.lht = tableSet lht line.toNat c) : chainOf s line = c := by
  simp [chainOf, h]

/-- In a lawful store an empty chain has no entry (04 R63). -/
theorem tableGet_lht_of_nil (ht : tablesLawful s) (h : chainOf s line = []) : tableGet s.lht line.toNat = none := by
  obtain ⟨-, -, -, ⟨-, hchains⟩, -⟩ := ht
  unfold chainOf at h
  split at h
  next c hc => exact absurd h (hchains _ (tableGet_mem hc)).2
  next hc => exact hc

theorem tableErase_lht_of_nil (ht : tablesLawful s) (h : chainOf s line = []) : tableErase s.lht line.toNat = s.lht :=
  tableErase_of_get_none (tableGet_lht_of_nil ht h)

end

/-! ## The tests of a step at the front (04 R65 to R67) -/

section
variable {s : State} {t : HostTag} {c : Context} {tag : DownTag} {waited : Bool} {line : Line}

theorem isJournalLine_iff : isJournalLine s line = true ↔ modeOf s line = .JOURNAL := by simp [isJournalLine]

/-- The test of 04 R65 lets a step through: no JOURNAL line, or the innermost epoch neither RESTORING nor HALTED. -/
def letThrough (s : State) (line : Line) : Prop :=
  modeOf s line ≠ .JOURNAL ∨ (innermostState s ≠ some .RESTORING ∧ innermostState s ≠ some .HALTED)

theorem letThrough_of_openOrEmpty (h : modeOf s line ≠ .JOURNAL ∨ openOrEmpty s) : letThrough s line := by
  refine h.imp_right fun h => ?_
  rcases innermostState_of_openOrEmpty h with h | h <;> simp [h]

theorem letThrough_of_entersChain {r : Request} (h : entersChain s line r) : letThrough s line := by
  refine letThrough_of_openOrEmpty ?_
  rcases h with h | ⟨h, -⟩ | ⟨-, h⟩
  · exact .inl (by simp [h])
  · exact .inl (by simp [h])
  · exact .inr h

theorem letThrough.not_restoring (h : letThrough s line) :
    ¬ (isJournalLine s line = true ∧ innermostState s = some .RESTORING) := by
  rintro ⟨hj, hr⟩
  rcases h with h | h
  · exact h (isJournalLine_iff.mp hj)
  · exact h.1 hr

theorem letThrough.not_halted (h : letThrough s line) :
    ¬ (isJournalLine s line = true ∧ innermostState s = some .HALTED) := by
  rintro ⟨hj, hr⟩
  rcases h with h | h
  · exact h (isJournalLine_iff.mp hj)
  · exact h.2 hr

theorem hostAtFront_emptyMask (ht : letThrough s c.line) (hm : emptyMask c.request = true) :
    hostAtFront t c waited s = (endContext t c .OK none s, [.front c.line]) := by
  rw [hostAtFront, if_neg ht.not_restoring, if_neg ht.not_halted, if_pos hm]

theorem hostAtFront_down (ht : letThrough s c.line) (hm : emptyMask c.request = false) (hl : s.dp.link = .DOWN) :
    hostAtFront t c waited s = (endContext t c .ERROR none s, [.front c.line]) := by
  rw [hostAtFront, if_neg ht.not_restoring, if_neg ht.not_halted, if_neg (by simp [hm]), if_pos hl]

theorem hostAtFront_access (ht : letThrough s c.line) (hm : emptyMask c.request = false) (hl : s.dp.link = .UP)
    (hfree : lowestFree s tag) (hhand : waited = true ∨ s.dp.tagWait = []) :
    hostAtFront t c waited s = accessMemory t c tag s := by
  have hfree' := (freeTag_iff s tag).mpr hfree
  have hhand' : tagAtHand s waited = true := by
    rcases hhand with h | h <;> simp [tagAtHand, hfree', h]
  simp only [hostAtFront, if_neg ht.not_restoring, if_neg ht.not_halted, hm, hl, hfree', hhand']
  simp

theorem hostAtFront_waits (ht : letThrough s c.line) (hm : emptyMask c.request = false) (hl : s.dp.link = .UP)
    (hnone : (∀ tag, ¬ lowestFree s tag) ∨ (waited = false ∧ s.dp.tagWait ≠ [])) : hostAtFront t c waited s =
      (waitForTag (.host t) (leaveHolds t (updateContext t (fun x => { x with state := .QUEUED }) s)), []) := by
  rw [hostAtFront, if_neg ht.not_restoring, if_neg ht.not_halted, if_neg (by simp [hm]), if_neg (by simp [hl])]
  split
  next tag hfree =>
    rcases hnone with h | ⟨rfl, h⟩
    · exact absurd ((freeTag_iff s tag).mp hfree) (h tag)
    · rw [if_neg (by simp [tagAtHand, h])]
  next => rfl

theorem hostAtFront_fenced (hj : modeOf s c.line = .JOURNAL) (hh : innermostState s = some .HALTED) :
    hostAtFront t c waited s = (endContext t c .FENCED none s, [.front c.line]) := by
  rw [hostAtFront, if_neg (by simp [hh]), if_pos ⟨isJournalLine_iff.mpr hj, hh⟩]

theorem hostAtFront_restoring (hj : modeOf s c.line = .JOURNAL) (hh : innermostState s = some .RESTORING) :
    hostAtFront t c waited s = (holdRequest t c s, [.front c.line]) := by
  rw [hostAtFront, if_pos ⟨isJournalLine_iff.mpr hj, hh⟩]

theorem atFront_host {rest : List Step} (hchain : chainOf s line = .host t :: rest) (hc : contextOf s t = some c)
    (hq : c.state = .QUEUED) (hw : Step.host t ∉ s.dp.tagWait) : atFront line s = hostAtFront t c false s := by
  simp [atFront, hchain, hc, hq, hw]

theorem atFront_active {st : Step} {rest : List Step} (hchain : chainOf s line = st :: rest)
    (ha : stepActive s st = true) : atFront line s = (s, []) := by
  cases st with
  | host g =>
    rcases hc : contextOf s g with - | c
    · simp [stepActive, contextActive, hc] at ha
    · have hq : c.state ≠ .QUEUED := by
        intro hq
        simp [stepActive, contextActive, hc, hq] at ha
      simp [atFront, hchain, hc, hq]
  | restore slot =>
    have hq : s.ec.sequencer ≠ .PLACED slot := by
      intro hq
      simp [stepActive, hq] at ha
    simp [atFront, hchain, hq]
  | orphan g => simp [atFront, hchain]

end

/-! ## Forwarding (04 R68, R71) -/

section
variable {s : State} {t : HostTag} {c : Context} {tag : DownTag} {line : Line}

theorem forwardRead_of_context (hc : contextOf s t = some c) : forwardRead t line tag s = { s with
    contexts := tableSet s.contexts t.val { c with state := .FORWARDED, downTag := some tag }
    dp := { s.dp with tracker := tableSet s.dp.tracker tag.val (entryNow s .FORWARD_READ (.context t) line) }
    downTx := s.downTx ++ [.read tag line] } := by
  have hcontexts := tableUpdate_of_get hc fun x => { x with state := .FORWARDED, downTag := some tag }
  simp only [forwardRead, updateContext, issue_contexts, hcontexts]
  rfl

theorem forwardWrite_of_context {m : Mask} {d : Data} (hc : contextOf s t = some c) : forwardWrite t line m d tag s = { s with
    contexts := tableSet s.contexts t.val { c with state := .FORWARDED, downTag := some tag }
    holds := withoutHold s t
    dp := { s.dp with tracker := tableSet s.dp.tracker tag.val (entryNow s .FORWARD_WRITE (.context t) line) }
    downTx := s.downTx ++ [.write tag line m d] } := by
  have hcontexts := tableUpdate_of_get hc fun x => { x with state := .FORWARDED, downTag := some tag }
  simp only [forwardWrite, updateContext, issue_contexts, hcontexts]
  rfl

theorem emptyMask_write {m : Mask} {d : Data} (hm : m ≠ 0) : emptyMask (.WRITE m d) = false := by simpa [emptyMask] using hm

theorem captureNeed_none (h : needsNoCapture s line) : captureNeed s line = .none := by
  unfold captureNeed
  split
  next => rfl
  next k hk =>
    split
    next => rfl
    next hj =>
      have hmode : modeOf s line = .JOURNAL := by simpa [modeOf, hk] using hj
      rcases h with h | h | ⟨e, r, k', hstack, hk', hnamed⟩
      · exact absurd hmode h
      · simp [h]
      · obtain rfl : k = k' := Option.some.inj (hk.symm.trans hk')
        rcases hnamed with h | h <;> simp [hstack, h]

theorem accessMemory_read (hr : c.request = .READ) : accessMemory t c tag s = (forwardRead t c.line tag s, []) := by
  simp [accessMemory, hr]

theorem accessMemory_uncaptured {m : Mask} {d : Data} (hr : c.request = .WRITE m d) (h : needsNoCapture s c.line) :
    accessMemory t c tag s = (forwardWrite t c.line m d tag s, [.shown c.line m d]) := by
  simp [accessMemory, hr, decideCapture, captureNeed_none h]

end

/-! ## Captures and full journals (03 R40, R47; 04 R69 to R78) -/

section
variable {s : State} {t : HostTag} {c : Context} {tag : DownTag} {line : Line} {k : Fin 8} {e : Epoch}
  {r : List Epoch} {own : Ident} {m : Mask} {d : Data}

theorem captureNeed_called (h : captureCalled s line k e r own) :
    captureNeed s line = if 1 ≤ freeCount s.jr then .capture k own e.sequence else .full := by
  obtain ⟨hk, hj, hstack, hbroken, hown, hnamed⟩ := h
  obtain ⟨ids, hids⟩ := List.head?_eq_some_iff.mp hown
  have hnamed' : e.ids.contains (stampGet s.stamps (stampIndex s k line)) = false := by simpa using hnamed
  have hhead : e.ids.headD 0 = own := by simp [hids]
  simp only [captureNeed, hk, hj, hstack, hbroken, hnamed', hhead, ne_eq, not_true, if_false, Bool.false_eq_true]

theorem freeCount_appendRecord {j : Journal} (h : 1 ≤ freeCount j) (x : Record) :
    freeCount (appendRecord x j) = freeCount j - 1 := by
  have hfull : j.full = false := by
    cases hf : j.full with
    | false => rfl
    | true => simp [freeCount, usedCount, hf] at h
  have hused : usedCount j = (j.head - j.tail).toNat := by simp [usedCount, hfull]
  have hnext : usedCount (appendRecord x j) = usedCount j + 1 := by
    have hstep : j.head + 1 - j.tail = (j.head - j.tail) + 1 := by
      rw [BitVec.sub_eq_add_neg, BitVec.sub_eq_add_neg, add_right_comm]
    have hmeets : j.head + 1 = j.tail ↔ (j.head - j.tail) + 1 = 0#11 := by
      rw [← hstep, BitVec.sub_eq_iff_eq_add, BitVec.zero_add]
    have hused' : usedCount (appendRecord x j) =
        if j.head + 1 = j.tail then 2048 else (j.head + 1 - j.tail).toNat := by
      simp only [usedCount, appendRecord, beq_iff_eq]
    rw [hused', hused, hstep]
    simp only [hmeets]
    generalize j.head - j.tail = n
    split <;> bv_omega
  rw [freeCount, freeCount, hnext, Nat.sub_sub]

theorem testLowWater_eq_waterTested {x : Option Line} {free : Nat} (hf : freeCount s.jr = free) : testLowWater x s = { s with
    jr := { s.jr with lowArmed := decide (s.cfg.lowWater ≤ free) }
    eq := waterTested s free x } := by
  subst hf
  simp only [testLowWater, waterTested]
  rfl

/-- A reservation, written out (03 R40, 04 R72). -/
theorem reserve_of_context (hc : contextOf s t = some c) (hstack : s.ec.stack = e :: r) (hfree : 1 ≤ freeCount s.jr) :
    reserve t line k own e.sequence tag s = { s with
      contexts := tableSet s.contexts t.val { c with
        state := .CAPTURING
        slot := some s.jr.head
        oldStamp := some (stampGet s.stamps (stampIndex s k line))
        downTag := some tag }
      holds := withoutHold s t
      stamps := stampSet s.stamps (stampIndex s k line) own
      ec := { s.ec with stack := { e with runLength := e.runLength + 1 } :: r }
      jr := {
        head := s.jr.head + 1
        tail := s.jr.tail
        full := decide (s.jr.head + 1 = s.jr.tail)
        records := tableSet s.jr.records s.jr.head.toNat ⟨line, k, own, e.sequence, .RESERVED, none⟩
        lowArmed := decide (s.cfg.lowWater ≤ freeCount s.jr - 1) }
      eq := waterTested s (freeCount s.jr - 1) (some line)
      dp := { s.dp with tracker := tableSet s.dp.tracker tag.val (entryNow s .CAPTURE_READ (.context t) line) }
      downTx := s.downTx ++ [.read tag line] } := by
  have hcontexts := tableUpdate_of_get hc fun x => { x with
    state := .CAPTURING
    slot := some s.jr.head
    oldStamp := some (stampGet s.stamps (stampIndex s k line))
    downTag := some tag }
  have hwater := testLowWater_eq_waterTested (x := some line) (free := freeCount s.jr - 1)
    (s := reserveSlot line k own e.sequence s) (freeCount_appendRecord hfree _)
  have hsequence : innermostSequence (reserveSlot line k own e.sequence s) = innermostSequence s := by
    simp [innermostSequence, innermost, reserveSlot, mapInnermost, hstack]
  have htested : waterTested (reserveSlot line k own e.sequence s) (freeCount s.jr - 1) (some line) =
      waterTested s (freeCount s.jr - 1) (some line) := by
    simp only [waterTested, hsequence]
    rfl
  change leaveHolds t (updateContext t _ (issue tag .CAPTURE_READ (.context t) line (.read tag line)
    (testLowWater (some line) (reserveSlot line k own e.sequence s)))) = _
  rw [hwater, htested]
  simp only [updateContext, issue_contexts, reserveSlot, mapInnermost, hstack, hcontexts]
  rfl

theorem accessMemory_captured (hr : c.request = .WRITE m d) (h : captureCalled s c.line k e r own)
    (hfree : 1 ≤ freeCount s.jr) : accessMemory t c tag s = (reserve t c.line k own e.sequence tag s, []) := by
  simp [accessMemory, hr, decideCapture, captureNeed_called h, hfree]

theorem accessMemory_full (hr : c.request = .WRITE m d) (h : captureCalled s c.line k e r own)
    (hfree : freeCount s.jr = 0) : accessMemory t c tag s = captureFull t c m d tag s := by
  simp [accessMemory, hr, decideCapture, captureNeed_called h, hfree]

end

/-! ## The watch unit (08 R133 to R136) -/

section
variable {s : State} {line : Line} {m : Mask} {d : Data}

theorem maskCovers_iff (m : Mask) (n : Fin 16) :
    maskCovers m n = true ↔ ∀ b : Fin 4, m.getLsbD (4 * n.val + b.val) = true := by
  rw [maskCovers, beq_iff_eq]
  constructor
  · intro h b
    have := congrArg (·.getLsbD b.val) h
    fin_cases b <;> simpa [BitVec.getLsbD_extractLsb'] using this
  · intro h
    refine BitVec.eq_of_getLsbD_eq fun i hi => ?_
    have := h ⟨i, hi⟩
    interval_cases i <;> simpa [BitVec.getLsbD_extractLsb'] using this

theorem wordOf_and_eq_iff (d : Data) (w : Watch) : wordOf d w.word &&& w.mask = w.value &&& w.mask ↔
    ∀ b : Fin 32, w.mask.getLsbD b.val = true → d.getLsbD (32 * w.word.val + b.val) = w.value.getLsbD b.val := by
  have hbit : ∀ b : Fin 32, (wordOf d w.word).getLsbD b.val = d.getLsbD (32 * w.word.val + b.val) := fun b => by
    rw [wordOf, BitVec.getLsbD_extractLsb', decide_eq_true b.isLt, Bool.true_and]
  constructor
  · intro h b hb
    have := congrArg (·.getLsbD b.val) h
    simp only [BitVec.getLsbD_and, hb, Bool.and_true] at this
    exact (hbit b).symm.trans this
  · intro h
    refine BitVec.eq_of_getLsbD_eq fun i hi => ?_
    rw [BitVec.getLsbD_and, BitVec.getLsbD_and, hbit ⟨i, hi⟩]
    cases hm : w.mask.getLsbD i
    · simp
    · rw [h ⟨i, hi⟩ hm]

theorem matchesWrite_iff (w : Watch) : w.matchesWrite line m d = true ↔ watchMatches w line m d := by
  simp only [Watch.matchesWrite, Bool.and_eq_true, beq_iff_eq, maskCovers_iff, wordOf_and_eq_iff, and_assoc]

theorem mem_matchingWatches (k : Fin 4) :
    (matchingWatches s line m d).contains k = true ↔ watchMatches s.wu.watches[k] line m d := by
  simp only [matchingWatches, List.contains_iff_mem, List.mem_filter, List.mem_finRange, true_and, matchesWrite_iff]

theorem setMarks_matching : setMarks (matchingWatches s line m d) s = { s with wu := watchesShown s line m d } := by
  have hrule : ∀ r : Rule, (if r.enabled then
      { r with members := r.members.map fun x =>
        if (matchingWatches s line m d).contains x.watch then { x with mark := some (s.now + 1000 * r.window) } else x }
      else r) = ruleShown s line m d r := fun r => by
    simp only [ruleShown, mem_matchingWatches]
  simp only [setMarks, watchesShown, hrule]

theorem fires_iff (k : Fin 2) :
    (watchesShown s line m d).rules[k].fires (matchingWatches s line m d) = true ↔ ruleFires s line m d s.wu.rules[k] := by
  have hrule : (watchesShown s line m d).rules[k] = ruleShown s line m d s.wu.rules[k] := by simp [watchesShown]
  rw [hrule]
  generalize s.wu.rules[k] = r
  by_cases hr : r.enabled = true
  · have hwatch : (∃ x ∈ (ruleShown s line m d r).members, watchMatches s.wu.watches[x.watch] line m d) ↔
        ∃ x ∈ r.members, watchMatches s.wu.watches[x.watch] line m d := by
      have hsame : ∀ x : Member, (if watchMatches s.wu.watches[x.watch] line m d then
          (⟨x.watch, some (s.now + 1000 * r.window)⟩ : Member) else x).watch = x.watch := fun x => by split <;> rfl
      simp only [ruleShown, hr, if_true, List.mem_map, exists_exists_and_eq_and, hsame]
    simp only [Rule.fires, Bool.and_eq_true, List.any_eq_true, List.all_eq_true, mem_matchingWatches, hwatch, ruleFires,
      and_assoc, hr, true_and]
    simp [ruleShown, hr]
  · simp [Rule.fires, ruleFires, ruleShown, hr]

theorem mem_firingRules (k : Fin 2) : k ∈ firingRules (matchingWatches s line m d) { s with wu := watchesShown s line m d } ↔
    ruleFires s line m d s.wu.rules[k] := by
  simp only [firingRules, List.mem_filter, List.mem_finRange, true_and, fires_iff]

theorem showWrite_eq : showWrite line m d s = ({ s with wu := watchesShown s line m d },
    (firingRules (matchingWatches s line m d) { s with wu := watchesShown s line m d }).map fun k => .fire k line) := by
  simp only [showWrite, setMarks_matching]

/-- A write that fires no rule sets its marks and does nothing else (08 R135). -/
theorem showWrite_quiet (h : ∀ k : Fin 2, ¬ ruleFires s line m d s.wu.rules[k]) :
    showWrite line m d s = ({ s with wu := watchesShown s line m d }, []) := by
  have hnone : firingRules (matchingWatches s line m d) { s with wu := watchesShown s line m d } = [] :=
    List.eq_nil_iff_forall_not_mem.mpr fun k hk => h k ((mem_firingRules k).mp hk)
  rw [showWrite_eq, hnone, List.map_nil]

theorem ruleShown_unwatched (h : unwatched s line m d) (r : Rule) : ruleShown s line m d r = r := by
  have hmember : ∀ x : Member, ¬ watchMatches s.wu.watches[x.watch] line m d := fun x => h x.watch
  simp only [ruleShown, hmember, if_false, List.map_id', ite_self]

theorem showWrite_unwatched (h : unwatched s line m d) : showWrite line m d s = (s, []) := by
  have hshown : watchesShown s line m d = s.wu := by
    have hsame : ruleShown s line m d = id := funext (ruleShown_unwatched h)
    rw [watchesShown, hsame, Vector.map_id]
  rw [showWrite_quiet, hshown]
  rintro k ⟨-, ⟨x, -, hx⟩, -⟩
  exact h x.watch hx

end

end Sys2Proof.Machine
end


section
/-! PROOFS. The host requests (01 R9; 04 R55 to R78; 07 R114 to R119; O27 to O32). -/

namespace Sys2Proof.Machine
open Sys2Proof.Safety

/-! ## Contexts that end, are held or wait -/

/-- An agenda of one task that asks for nothing more. -/
theorem runAgenda_one {task : Task} {s u : State} (h : perform task s = (u, [])) : runAgenda 1 [task] s = some u := by
  rw [runAgenda_cons, h, List.append_nil, runAgenda_nil]

section
variable {s : State} {t : HostTag} {c : Context} {line : Line} {r : Request}

/-- A context ended with the upstream link UP, its parts written out (04 R56, 07 R116). -/
theorem endContext_of_up {contexts : Table Context} {lht : Table (List Step)} {holds : List HoldEntry} {waits : List Step}
    (hup : s.upLink = .UP) (hcontexts : tableErase s.contexts t.val = contexts)
    (hlht : putChain s.lht c.line ((chainOf s c.line).filter fun x => x != .host t) = lht)
    (hholds : withoutHold s t = holds) (hwaits : (s.dp.tagWait.filter fun x => x != .host t) = waits)
    (st : HostStatus) (d : Option Data) : endContext t c st d s = { s with
    contexts := contexts
    lht := lht
    holds := holds
    dp := { s.dp with tagWait := waits }
    upTx := s.upTx ++ [⟨t, c.request.kind, st, d⟩] } := by
  subst hcontexts hlht hholds hwaits
  simp only [endContext, sendReply, if_pos hup]
  rfl

/-- A context held with reason OPERATION, its parts written out (04 R58, R59, R65). -/
theorem holdRequest_of_context {lht : Table (List Step)} {holds : List HoldEntry} {waits : List Step}
    (hc : contextOf s t = some c)
    (hlht : putChain s.lht c.line ((chainOf s c.line).filter fun x => x != .host t) = lht)
    (hholds : withoutHold s t = holds) (hwaits : (s.dp.tagWait.filter fun x => x != .host t) = waits) :
    holdRequest t c s = { s with
      contexts := tableSet s.contexts t.val { c with state := .HELD }
      lht := lht
      holds := holds ++ [⟨t, c.line, .OPERATION, holdExpiryTime s⟩]
      dp := { s.dp with tagWait := waits } } := by
  subst hlht hholds hwaits
  have hcontexts := tableUpdate_of_get hc fun x => { x with state := .HELD }
  simp only [holdRequest, updateContext, hcontexts]
  rfl

theorem filter_ne_of_not_mem {l : List Step} (h : Step.host t ∉ l) : (l.filter fun x => x != .host t) = l :=
  List.filter_eq_self.mpr fun x hx => by simpa using fun hh : x = .host t => h (hh ▸ hx)

theorem withoutHold_of_forall (h : ∀ e ∈ s.holds, e.tag ≠ t) : withoutHold s t = s.holds :=
  List.filter_eq_self.mpr fun e he => by simpa using h e he

theorem putChain_chainOf (ht : tablesLawful s) (line : Line) : putChain s.lht line (chainOf s line) = s.lht := by
  by_cases h : chainOf s line = []
  · rw [h, putChain_nil, tableErase_lht_of_nil ht h]
  · rw [putChain_of_ne_nil h]
    obtain ⟨-, -, -, ⟨hwf, -⟩, -⟩ := ht
    unfold chainOf at h ⊢
    split at h
    next c hc => exact tableSet_of_get hc hwf
    next => exact absurd rfl h

/-- A tag without a live context stands nowhere (04 R54, R56, R58, R63). -/
theorem not_mem_of_no_context (hw : workLawful s) (hn : contextOf s t = none) :
    (∀ line, Step.host t ∉ chainOf s line) ∧ (∀ e ∈ s.holds, e.tag ≠ t) ∧ Step.host t ∉ s.dp.tagWait := by
  obtain ⟨hchains, hholds, hwaits⟩ := hw
  refine ⟨fun line hm => ?_, fun e he h => ?_, fun hm => ?_⟩
  · have := hchains _ (mem_of_mem_chainOf hm) t hm
    simp [hn] at this
  · have := hholds e he
    simp [h, hn] at this
  · have := hwaits t hm
    simp [hn] at this

end

/-! ## Requests received (07 R114, R115) -/

section
variable {i : Instr} {s u : State} {t : HostTag} {line : Line} {r : Request} {n : Nat}

theorem exec_of_requestRow (h : requestRow i = some (t, line, r)) : exec i s = receiveRequest t line r s := by
  unfold requestRow at h
  split at h <;> cases h <;> rfl

/-- The context of a request just received. -/
def freshContext (r : Request) (line : Line) : Context := ⟨r, line, .QUEUED, none, none, none⟩

/-- A request received, before intake. -/
def arrived (t : HostTag) (line : Line) (r : Request) (s : State) : State :=
  { s with contexts := tableSet s.contexts t.val (freshContext r line) }

/-- A request received and appended to its line's chain. -/
def queued (t : HostTag) (line : Line) (r : Request) (s : State) : State :=
  { s with
    contexts := tableSet s.contexts t.val (freshContext r line)
    lht := tableSet s.lht line.toNat (chainOf s line ++ [.host t]) }

theorem contextOf_arrived : contextOf (arrived t line r s) t = some (freshContext r line) := tableGet_set_same ..

theorem contextOf_queued : contextOf (queued t line r s) t = some (freshContext r line) := tableGet_set_same ..

theorem chainOf_queued : chainOf (queued t line r s) line = chainOf s line ++ [.host t] := chainOf_tableSet rfl

theorem queueRequest_arrived : queueRequest t line (arrived t line r s) = queued t line r s := by
  have hcontexts := tableUpdate_of_get (contextOf_arrived (t := t) (line := line) (r := r) (s := s))
    fun x => { x with state := .QUEUED }
  have hset : tableSet (arrived t line r s).contexts t.val (freshContext r line) = (arrived t line r s).contexts :=
    tableSet_tableSet ..
  have hlht : putChain s.lht line (chainOf s line ++ [Step.host t]) =
      tableSet s.lht line.toNat (chainOf s line ++ [.host t]) :=
    putChain_of_ne_nil (by simp)
  simp only [queueRequest, updateContext, hcontexts]
  change joinChain line (.host t)
    { arrived t line r s with contexts := tableSet (arrived t line r s).contexts t.val (freshContext r line) } = _
  rw [hset]
  change { arrived t line r s with lht := putChain s.lht line (chainOf s line ++ [Step.host t]) } = _
  rw [hlht]
  rfl

theorem classify_entersChain {c : Context} (he : entersChain s c.line c.request) :
    classify t c s = chainRequest t c s := by
  rcases he with h | ⟨h, hr⟩ | ⟨h, hopen⟩
  · simp [classify, h]
  · simp [classify, h, hr, Request.kind]
  · rcases innermostState_of_openOrEmpty hopen with hi | hi <;> simp [classify, h, hi]

/-- A request that is accepted goes through intake. -/
theorem receiveRequest_accepted (ha : accepts s t) :
    receiveRequest t line r s = settle [.intake t] (arrived t line r s) := by
  obtain ⟨hheld, hup, hnone⟩ := ha
  rw [receiveRequest, if_neg (by simp [hheld, hup]), if_neg (by simp [hnone])]
  rfl

theorem perform_intake : perform (.intake t) (arrived t line r s) = classify t (freshContext r line) (arrived t line r s) := by
  simp only [perform, takeIntake, contextOf_arrived]

/-- A request that its classification answers or holds needs nothing more. -/
theorem receiveRequest_classified (ha : accepts s t)
    (h : classify t (freshContext r line) (arrived t line r s) = (u, [])) : receiveRequest t line r s = .next u := by
  rw [receiveRequest_accepted ha]
  exact settle_of_steps 1 (by simp [runAgenda_cons, perform_intake, h]) (by decide)

/-- A request that enters its chain: what its line's front then does is the event. -/
theorem receiveRequest_chained {ts : List Task} {v : State} (ha : accepts s t) (he : entersChain s line r)
    (hfront : atFront line (queued t line r s) = (v, ts)) (h : runAgenda n ts v = some u) (hn : n + 2 ≤ Config.agendaBound) :
    receiveRequest t line r s = .next u := by
  have hintake : perform (.intake t) (arrived t line r s) = (queued t line r s, [.front line]) := by
    rw [perform_intake, classify_entersChain (s := arrived t line r s) (c := freshContext r line) he, chainRequest]
    exact congrArg (·, _) queueRequest_arrived
  rw [receiveRequest_accepted ha]
  refine settle_of_steps (n + 2) ?_ hn
  rw [runAgenda_cons, hintake, List.append_nil, runAgenda_cons]
  change runAgenda n ((atFront line (queued t line r s)).2 ++ []) (atFront line (queued t line r s)).1 = _
  rw [hfront, List.append_nil, h]

end

/-! ## The front of an empty chain -/

section
variable {s u : State} {t : HostTag} {line : Line} {r : Request} {tag : DownTag} {n : Nat}

theorem queued_of_nil (hchain : chainOf s line = []) : queued t line r s = { s with
    contexts := tableSet s.contexts t.val (freshContext r line)
    lht := tableSet s.lht line.toNat [.host t] } := by
  simp only [queued, hchain, List.nil_append]

theorem chainOf_queued_of_nil (hchain : chainOf s line = []) : chainOf (queued t line r s) line = [.host t] := by
  rw [chainOf_queued, hchain, List.nil_append]

theorem atFront_queued (hchain : chainOf s line = []) (hwait : Step.host t ∉ s.dp.tagWait) :
    atFront line (queued t line r s) = hostAtFront t (freshContext r line) false (queued t line r s) :=
  atFront_host (s := queued t line r s) (chainOf_queued_of_nil hchain) contextOf_queued rfl hwait

/-- A request that enters an empty chain with a tag at hand makes its access at once. -/
theorem receiveRequest_access {ts : List Task} {v : State} (ha : accepts s t) (hchain : chainOf s line = [])
    (htag : tagReady s tag) (he : entersChain s line r) (hm : emptyMask r = false)
    (haccess : accessMemory t (freshContext r line) tag (queued t line r s) = (v, ts))
    (h : runAgenda n ts v = some u) (hn : n + 2 ≤ Config.agendaBound) : receiveRequest t line r s = .next u := by
  obtain ⟨hlink, hfree, hwait⟩ := htag
  refine receiveRequest_chained ha he ?_ h hn
  rw [atFront_queued hchain (by simp [hwait]), ← haccess]
  exact hostAtFront_access (s := queued t line r s) (letThrough_of_entersChain (s := queued t line r s) he) hm hlink hfree
    (.inr hwait)

/-- A request that ends where it stands alone on its line leaves nothing but its reply. -/
theorem endContext_queued (ha : accepts s t) (hwork : workLawful s) (htables : tablesLawful s)
    (hchain : chainOf s line = []) (st : HostStatus) (d : Option Data) :
    endContext t (freshContext r line) st d (queued t line r s) =
      { s with upTx := s.upTx ++ [⟨t, r.kind, st, d⟩] } := by
  obtain ⟨-, hup, hnone⟩ := ha
  obtain ⟨-, hholds, hwaits⟩ := not_mem_of_no_context hwork hnone
  have hlht : putChain (queued t line r s).lht line
      ((chainOf (queued t line r s) line).filter fun x => x != .host t) = s.lht := by
    rw [chainOf_queued_of_nil hchain, List.filter_cons_of_neg (by simp), List.filter_nil, putChain_nil]
    exact tableErase_tableSet (tableGet_lht_of_nil htables hchain) _
  exact endContext_of_up (s := queued t line r s) hup (tableErase_tableSet hnone _) hlht
    (withoutHold_of_forall (s := queued t line r s) hholds) (filter_ne_of_not_mem hwaits) st d

theorem putChain_arrived (hwork : workLawful s) (htables : tablesLawful s) (hnone : contextOf s t = none) :
    putChain (arrived t line r s).lht line ((chainOf (arrived t line r s) line).filter fun x => x != .host t) = s.lht := by
  change putChain s.lht line ((chainOf s line).filter fun x => x != .host t) = s.lht
  rw [filter_ne_of_not_mem ((not_mem_of_no_context hwork hnone).1 line), putChain_chainOf htables]

/-- The same of a request that intake answers (04 R57). -/
theorem endContext_arrived (ha : accepts s t) (hwork : workLawful s) (htables : tablesLawful s)
    (st : HostStatus) (d : Option Data) : endContext t (freshContext r line) st d (arrived t line r s) =
      { s with upTx := s.upTx ++ [⟨t, r.kind, st, d⟩] } := by
  obtain ⟨-, hup, hnone⟩ := ha
  obtain ⟨-, hholds, hwaits⟩ := not_mem_of_no_context hwork hnone
  exact endContext_of_up (s := arrived t line r s) hup (tableErase_tableSet hnone _)
    (putChain_arrived hwork htables hnone) (withoutHold_of_forall (s := arrived t line r s) hholds)
    (filter_ne_of_not_mem hwaits) st d

/-- A write received, forwarded uncaptured, and not yet shown to the watch unit (04 R71). -/
def written (t : HostTag) (line : Line) (m : Mask) (d : Data) (tag : DownTag) (s : State) : State :=
  { s with
    contexts := tableSet s.contexts t.val ⟨.WRITE m d, line, .FORWARDED, none, none, some tag⟩
    lht := tableSet s.lht line.toNat [.host t]
    holds := withoutHold s t
    dp := { s.dp with tracker := tableSet s.dp.tracker tag.val (entryNow s .FORWARD_WRITE (.context t) line) }
    downTx := s.downTx ++ [.write tag line m d] }

theorem forwardWrite_queued {m : Mask} {d : Data} (hchain : chainOf s line = []) :
    forwardWrite t line m d tag (queued t line (.WRITE m d) s) = written t line m d tag s := by
  rw [forwardWrite_of_context contextOf_queued, queued_of_nil hchain]
  simp only [tableSet_tableSet]
  rfl

/-- A write that needs no capture is forwarded at once; what the watch unit then does is the event. -/
theorem receiveRequest_written {m : Mask} {d : Data} (ha : accepts s t) (hchain : chainOf s line = [])
    (htag : tagReady s tag) (he : entersChain s line (.WRITE m d)) (hneed : needsNoCapture s line) (hm : m ≠ 0)
    (h : runAgenda n (showWrite line m d (written t line m d tag s)).2
      (showWrite line m d (written t line m d tag s)).1 = some u) (hn : n + 3 ≤ Config.agendaBound) :
    receiveRequest t line (.WRITE m d) s = .next u := by
  have haccess := accessMemory_uncaptured (t := t) (tag := tag) (c := freshContext (.WRITE m d) line)
    (s := queued t line (.WRITE m d) s) rfl hneed
  rw [show (freshContext (.WRITE m d) line).line = line from rfl, forwardWrite_queued hchain] at haccess
  refine receiveRequest_access (n := n + 1) ha hchain htag he (emptyMask_write hm) haccess ?_ hn
  rw [runAgenda_cons, List.append_nil]
  exact h

end

/-- Settles O27. -/
theorem requestsAreForwarded : Obligations.RequestsAreForwarded := by
  intro t line tag s ha hchain htag
  refine ⟨fun he => ?_, fun m d he hneed hm hfires => ?_⟩
  · refine receiveRequest_access (n := 0) ha hchain htag he rfl (accessMemory_read rfl) ?_ (by decide)
    rw [forwardRead_of_context contextOf_queued, queued_of_nil hchain, runAgenda_nil]
    simp only [tableSet_tableSet]
    rfl
  · have hshown := showWrite_quiet (s := written t line m d tag s) hfires
    refine receiveRequest_written (n := 0) ha hchain htag he hneed hm ?_ (by decide)
    rw [hshown, runAgenda_nil]
    rfl

/-- A write to a line that calls for a capture under an OPEN epoch enters its chain. -/
theorem entersChain_of_needsCapture {s : State} {line : Line} {k : Fin 8} {e : Epoch} {r : List Epoch} {own : Ident}
    (h : needsCapture s line k e r own) (q : Request) : entersChain s line q := by
  obtain ⟨⟨hk, hj, hstack, -⟩, hopen⟩ := h
  exact .inr (.inr ⟨by simp only [modeOf, hk, hj], .inr (by rw [innermostState_of_stack hstack, hopen])⟩)

/-- Settles O28. -/
theorem writesAreCaptured : Obligations.WritesAreCaptured := by
  intro t line m d tag k e r own s ha hchain htag hm hneed hfree
  have hcalled : captureCalled (queued t line (.WRITE m d) s) (freshContext (.WRITE m d) line).line k e r own := hneed.1
  obtain ⟨-, -, hstack, -⟩ := hneed.1
  refine receiveRequest_access (n := 0) ha hchain htag (entersChain_of_needsCapture hneed _) (emptyMask_write hm)
    (accessMemory_captured rfl hcalled hfree) ?_ (by decide)
  rw [reserve_of_context contextOf_queued hstack hfree, queued_of_nil hchain, runAgenda_nil]
  simp only [tableSet_tableSet]
  rfl

section
variable {s : State} {t : HostTag} {c : Context} {tag : DownTag} {m : Mask} {d : Data}

theorem captureFull_hold (hp : s.cfg.capturePolicy = .HOLD) (hc : contextOf s t = some c) (hq : c.state = .QUEUED) :
    captureFull t c m d tag s = ({ s with
      contexts := tableSet s.contexts t.val { c with state := .SPACE_WAIT }
      holds := s.holds ++ [⟨t, c.line, .SPACE, holdExpiryTime s⟩] }, []) := by
  have hcontexts := tableUpdate_of_get hc fun x => { x with state := .SPACE_WAIT }
  simp only [captureFull, hp, hq, updateContext, hcontexts]
  rfl

theorem captureFull_refuse (hp : s.cfg.capturePolicy = .REFUSE) : captureFull t c m d tag s =
    (postEvent .WRITE_REFUSED (innermostSequence s) (some c.line) (detail 1) (endContext t c .REFUSED none s),
      [.front c.line]) := by
  simp only [captureFull, hp]

theorem captureFull_break (hp : s.cfg.capturePolicy = .BREAK) : captureFull t c m d tag s =
    (forwardWrite t c.line m d tag
      (postEvent .BROKEN (innermostSequence s) (some c.line) (detail s.ec.stack.length) (breakAll s)),
      [.shown c.line m d]) := by
  simp only [captureFull, hp]

end

/-- Settles O29. -/
theorem fullJournalsFollowThePolicy : Obligations.FullJournalsFollowThePolicy := by
  intro t line m d tag k e r own s ha hchain htag hm hneed hfull hwork htables
  let q := queued t line (.WRITE m d) s
  have hcalled : captureCalled q (freshContext (.WRITE m d) line).line k e r own := hneed.1
  obtain ⟨-, -, hstack, -⟩ := hneed.1
  have hholds := (not_mem_of_no_context hwork ha.2.2).2.1
  have hsequence : innermostSequence s = some e.sequence := by simp [innermostSequence, innermost, hstack]
  have hgoes : ∀ {n : Nat} {ts : List Task} {u v : State},
      captureFull t (freshContext (.WRITE m d) line) m d tag q = (v, ts) →
      runAgenda n ts v = some u → n + 2 ≤ Config.agendaBound → exec (.writeRequest t line m d) s = .next u :=
    fun hpolicy => receiveRequest_access ha hchain htag (entersChain_of_needsCapture hneed _) (emptyMask_write hm)
      ((accessMemory_full rfl hcalled hfull).trans hpolicy)
  refine ⟨fun hp => ?_, fun hp => ?_, fun hp hwatch => ?_⟩
  · refine hgoes (n := 0) (captureFull_hold (s := q) hp contextOf_queued rfl) ?_ (by decide)
    simp only [q]
    rw [queued_of_nil hchain, runAgenda_nil]
    simp only [tableSet_tableSet]
    rfl
  · refine hgoes (n := 1) (captureFull_refuse (s := q) hp) ?_ (by decide)
    rw [endContext_queued ha hwork htables hchain, show innermostSequence q = some e.sequence from hsequence]
    exact runAgenda_one (atFront_nil hchain)
  · let s' := postEvent .BROKEN (some e.sequence) (some line) (detail s.ec.stack.length) (breakAll s)
    have hsent : captureFull t (freshContext (.WRITE m d) line) m d tag q =
        (written t line m d tag s', [.shown line m d]) := by
      rw [captureFull_break (s := q) hp, show innermostSequence q = some e.sequence from hsequence]
      exact congrArg (·, _) (forwardWrite_queued (s := s') hchain)
    have hshown := showWrite_unwatched (s := written t line m d tag s') hwatch
    refine hgoes (n := 1) hsent ((runAgenda_one (task := .shown line m d) hshown).trans ?_) (by decide)
    rw [written, show withoutHold s' t = s.holds from withoutHold_of_forall (s := s') hholds]
    rfl

/-- Settles O30. -/
theorem requestsAreHeldOrFenced : Obligations.RequestsAreHeldOrFenced := by
  intro i t line r s hrow ha hwork htables
  rw [exec_of_requestRow hrow]
  have hend := fun st d => endContext_arrived (r := r) (line := line) ha hwork htables st d
  have hmode : modeOf (arrived t line r s) line = modeOf s line := rfl
  have hline : (freshContext r line).line = line := rfl
  refine ⟨fun hm hr => ?_, fun hm hh => ?_, fun hm hd => ?_⟩
  · have hkind : r.kind = .WRITE := by cases r <;> simp [Request.kind] at hr ⊢
    refine receiveRequest_classified ha (r := r) (line := line) ?_
    simp only [classify, hline, hmode, hm, hend, hkind, show (freshContext r line).request = r from rfl]
    rfl
  · refine receiveRequest_classified ha (r := r) (line := line) ?_
    simp only [classify, hline, hmode, hm, hend, show innermostState (arrived t line r s) = _ from hh]
  · obtain ⟨hchains, hholds, hwaits⟩ := not_mem_of_no_context hwork ha.2.2
    have hheld : classify t (freshContext r line) (arrived t line r s) =
        (holdRequest t (freshContext r line) (arrived t line r s), []) := by
      rcases hd with hd | hd <;>
        simp only [classify, hline, hmode, hm, show innermostState (arrived t line r s) = _ from hd]
    refine receiveRequest_classified ha (hheld.trans ?_)
    rw [holdRequest_of_context contextOf_arrived (putChain_arrived hwork htables ha.2.2)
      (withoutHold_of_forall (s := arrived t line r s) hholds) (filter_ne_of_not_mem hwaits)]
    simp only [arrived, tableSet_tableSet]
    rfl

/-- Settles O31. -/
theorem requestsAnsweredAtOnce : Obligations.RequestsAnsweredAtOnce := by
  intro i t line r s hrow
  rw [exec_of_requestRow hrow]
  refine ⟨fun h => if_pos h, fun hheld hup c hc => ?_, fun ha hwork htables hchain he => ?_⟩
  · rw [receiveRequest, if_neg (by simp [hheld, hup]), if_pos (by simp [hc])]
    cases r <;> simp only [sendReply, if_pos hup] <;> rfl
  · have hwait := (not_mem_of_no_context hwork ha.2.2).2.2
    have hthrough : letThrough (queued t line r s) line := letThrough_of_entersChain (s := s) he
    have hends : ∀ st, atFront line (queued t line r s) =
          (endContext t (freshContext r line) st none (queued t line r s), [.front line]) →
        receiveRequest t line r s = .next { s with upTx := s.upTx ++ [⟨t, r.kind, st, none⟩] } := fun st hfront => by
      rw [endContext_queued ha hwork htables hchain] at hfront
      exact receiveRequest_chained (n := 1) ha he hfront (runAgenda_one (atFront_nil hchain)) (by decide)
    refine ⟨fun d hr => ?_, fun hr hdown => hends .ERROR ?_⟩
    · subst hr
      refine hends .OK ?_
      rw [atFront_queued hchain hwait,
        hostAtFront_emptyMask (s := queued t line (.WRITE 0 d) s) (c := freshContext (.WRITE 0 d) line) hthrough rfl]
      rfl
    · have hmask : emptyMask r = false := by
        cases r with
        | READ => rfl
        | WRITE m d => exact emptyMask_write fun hm => hr d (by rw [hm])
      rw [atFront_queued hchain hwait, hostAtFront_down (s := queued t line r s) (c := freshContext r line) hthrough hmask hdown]
      rfl

/-- Settles O32. -/
theorem requestsWaitTheirTurn : Obligations.RequestsWaitTheirTurn := by
  intro i t line r s hrow ha hwork htables he
  rw [exec_of_requestRow hrow]
  obtain ⟨hchains, hholds, hwaits⟩ := not_mem_of_no_context hwork ha.2.2
  refine ⟨fun st rest hchain hactive => ?_, fun hchain hr hup hnone => ?_⟩
  · have hother : stepActive (queued t line r s) st = stepActive s st := by
      cases st with
      | host g =>
        have hne : g.val ≠ t.val := fun h => hchains line (by rw [hchain, Fin.ext h]; simp)
        simp only [stepActive, contextActive, contextOf, queued, tableGet_set_other _ _ hne]
      | restore slot => rfl
      | orphan g => rfl
    have hfront := atFront_active (s := queued t line r s) (line := line) (st := st) (rest := rest ++ [.host t])
      (by rw [chainOf_queued, hchain]; rfl) (hother.trans hactive)
    refine receiveRequest_chained (n := 0) ha he hfront ?_ (by decide)
    rw [runAgenda_nil, queued, hchain]
    rfl
  · have hmask : emptyMask r = false := by
      cases r with
      | READ => rfl
      | WRITE m d => exact emptyMask_write fun hm => hr d (by rw [hm])
    have hfront := (atFront_queued (r := r) hchain hwaits).trans
      (hostAtFront_waits (s := queued t line r s) (letThrough_of_entersChain (s := s) he) hmask hup
        (hnone.imp_right fun h => ⟨rfl, h⟩))
    refine receiveRequest_chained (n := 0) ha he hfront ?_ (by decide)
    have hcontexts := tableUpdate_of_get (contextOf_queued (t := t) (line := line) (r := r) (s := s))
      fun x => { x with state := .QUEUED }
    simp only [updateContext, hcontexts, leaveHolds, waitForTag]
    rw [queued_of_nil hchain, runAgenda_nil]
    simp only [tableSet_tableSet]
    rw [show (s.holds.filter fun h => h.tag != t) = s.holds from withoutHold_of_forall hholds]
    rfl

end Sys2Proof.Machine
end


section
/-! PROOFS. Runs released, identifiers retired and events posted at the end of a closing operation (03 R43, R44;
05 R81 to R93; 06 R103 to R108; O41, O42, O44). -/

namespace Sys2Proof.Machine
open Sys2Proof.Safety

/-! ## The scrubber (06 R105 to R108) -/

theorem tableGet_map {α β : Type} (t : Table α) (g : α → β) (k : Nat) :
    tableGet (t.map fun p => (p.1, g p.2)) k = (tableGet t k).map g := by
  induction t with
  | nil => rfl
  | cons p t ih =>
    obtain ⟨j, v⟩ := p
    by_cases h : k = j <;> simp [tableGet, h, ih]

section
variable {s : State}

theorem isRetiring_iff (i : Ident) : isRetiring s i = true ↔ ∃ r ∈ s.ip.retiring, r.id = i := by
  simp [isRetiring, List.any_eq_true]

/-- A kept old stamp that holds a returning identifier (06 R108). -/
theorem keeps_returning_iff (done : List Retiring) (o : Option Ident) :
    o.any ((done.map (·.id)).contains ·) = true ↔ ∃ r ∈ done, o = some r.id := by
  cases o with
  | none => simp
  | some i => simp [eq_comm]

/-- A context with its kept old stamp cleared where it holds a returning identifier (06 R108). -/
def clearedContext (done : List Retiring) (c : Context) : Context :=
  if c.state = .CAPTURING ∧ ∃ r ∈ done, c.oldStamp = some r.id then { c with oldStamp := some 0 } else c

/-- The same of a tracker entry. -/
def clearedEntry (done : List Retiring) (e : TrackerEntry) : TrackerEntry :=
  if ∃ r ∈ done, e.oldStamp = some r.id then { e with oldStamp := some 0 } else e

/-- The retiring entries that a pass completed now returns (06 R107). -/
def returningNow (s : State) : List Retiring := s.ip.retiring.filter fun r => r.eligibleAfter == s.ss.pass

theorem completePass_contexts_eq :
    (completePass s).contexts = s.contexts.map fun p => (p.1, clearedContext (returningNow s) p.2) :=
  List.map_congr_left fun p _ => congrArg (p.1, ·)
    (if_congr (and_congr_right fun _ => keeps_returning_iff (returningNow s) p.2.oldStamp) rfl rfl)

theorem completePass_tracker_eq :
    (completePass s).dp.tracker = s.dp.tracker.map fun p => (p.1, clearedEntry (returningNow s) p.2) :=
  List.map_congr_left fun p _ => congrArg (p.1, ·)
    (if_congr (keeps_returning_iff (returningNow s) p.2.oldStamp) rfl rfl)

theorem visitStamp_stamps_eq : (visitStamp s).stamps =
    if ∃ r ∈ s.ip.retiring, r.id = stampGet s.stamps s.ss.position.toNat then stampSet s.stamps s.ss.position.toNat 0
    else s.stamps := by
  simp only [visitStamp, isRetiring_iff]

end

/-- Settles O41. -/
theorem scrubberVisitsStamps : Obligations.ScrubberVisitsStamps := by
  intro s stamp stamps done kept
  have hvisit : visitStamp s = { s with stamps := stamps } := by
    rw [show stamps = (visitStamp s).stamps from visitStamp_stamps_eq.symm]
    rfl
  have hlast : s.ss.position = Config.lastStamp ↔ s.ss.position.toNat = 262143 := BitVec.toNat_inj.symm
  refine ⟨fun h => if_pos (by simp [h]), fun h hpos => ?_, fun h hpos => ?_⟩
  · change execScrubberVisit s = _
    simp only [execScrubberVisit, h, Bool.not_true, Bool.false_eq_true, if_false, hlast, hpos, hvisit]
  · have hexec : exec .scrubberVisit s = .next (completePass { s with stamps := stamps }) := by
      change execScrubberVisit s = _
      simp only [execScrubberVisit, h, Bool.not_true, Bool.false_eq_true, if_false, hlast, hpos, if_true, hvisit]
    generalize hv : { s with stamps := stamps } = v at hexec
    have hss : (completePass v).ss = if kept = [] then ⟨false, 0, s.ss.pass, s.ss.started⟩
        else ⟨true, 0, s.ss.pass + 1, s.now⟩ := by rw [← hv]; rfl
    refine ⟨completePass v, hexec, ?_, fun t => ?_, fun tag => ?_⟩
    · have hparts : completePass v = { s with
          stamps := stamps
          ip := ⟨s.ip.free ++ done.map (·.id), kept⟩
          ss := (completePass v).ss
          contexts := (completePass v).contexts
          dp := { s.dp with tracker := (completePass v).dp.tracker } } := by rw [← hv]; rfl
      refine hparts.trans ?_
      by_cases hk : kept = []
      · rw [if_pos hk] at hss ⊢
        rw [hss]
      · rw [if_neg hk] at hss ⊢
        rw [hss]
    · rw [contextOf, completePass_contexts_eq, tableGet_map, ← hv]
      rfl
    · rw [completePass_tracker_eq, tableGet_map, ← hv]
      rfl

/-! ## What a drain's completion performs (05 R81, R82) -/

section
variable {s u : State} {e : Epoch} {r : List Epoch} {b : Bool}

theorem judgeDrain_performs (hstack : s.ec.stack = e :: r) (he : e.state = .DRAINING) (hset : drainSet s = []) :
    judgeDrain s = performPending e s := by
  simp only [judgeDrain, innermost, hstack, List.head?_cons, he, hset, and_self, if_true]

/-- A drain's completion whose operation leaves nothing held and no drain in progress ends with the operation. -/
theorem exec_drainCompletion_ends (hstack : s.ec.stack = e :: r) (he : e.state = .DRAINING) (hset : drainSet s = [])
    (hperform : performPending e s = (u, closingEnd b)) (hholds : u.holds = [])
    (hnext : innermostState u ≠ some .DRAINING) : exec .drainCompletion s = .next u := by
  change settle [.drain] s = _
  refine settle_of_steps 4 ?_ (by decide)
  rw [runAgenda_cons]
  change runAgenda 3 ((judgeDrain s).2 ++ []) (judgeDrain s).1 = _
  rw [judgeDrain_performs hstack he hset, hperform, List.append_nil, closingEnd_empty b hholds hnext]

theorem innermostState_ne_draining_of_open (h : ∀ x ∈ u.ec.stack, x.state = .OPEN) :
    innermostState u ≠ some .DRAINING := by
  cases hstack : u.ec.stack with
  | nil => simp [innermostState, innermost, hstack]
  | cons x l => simp [innermostState_of_stack hstack, h x (by simp [hstack])]

/-! ## Identifiers retired, the watermark after a release -/

/-- The identifier pool once identifiers have retired with an eligible-after (06 R103, R104). -/
def retiredTo (pass : BitVec 16) (s : State) (ids : List Ident) : IdPool :=
  { s.ip with retiring := s.ip.retiring ++ ids.map fun i => ⟨i, pass⟩ }

theorem retire_parts (pass : BitVec 16) (ids : List Ident) (s : State) :
    retire pass ids s = { s with ip := retiredTo pass s ids, ss := scrubberAfter s ids } := by
  simp only [retire, scrubberAfter, Bool.not_eq_eq_eq_not, Bool.not_true]
  rfl

theorem poolAfter_nil (s : State) : poolAfter s [] = s.ip := by simp [poolAfter]

theorem scrubberAfter_nil (s : State) : scrubberAfter s [] = s.ss := by simp [scrubberAfter]

/-- More free slots than before post no JOURNAL_LOW (03 R47). -/
theorem waterTested_of_more {free : Nat} {x : Option Line} (hw : waterLawful s) (h : freeCount s.jr ≤ free) :
    waterTested s free x = s.eq := by
  refine if_neg fun ⟨harmed, hlow⟩ => ?_
  have := hw.mp harmed
  omega

theorem runs_of_ringLawful (h : ringLawful s) :
    runsFrom s.jr.tail s.ec.stack = some s.jr.head ∧ ringShape s.jr (runTotal s.ec.stack) := by
  obtain ⟨hruns, hused⟩ := h
  have htotal : usedCount s.jr = runTotal s.ec.stack := hused
  exact ⟨hruns, htotal ▸ shape_of_usedCount (htotal ▸ runsFrom_end hruns)⟩

theorem freeCount_of_shape {j : Journal} {n : Nat} (h : ringShape j n) : freeCount j = 2048 - n := by
  rw [freeCount, usedCount_of_shape h]

theorem full_of_shape {j : Journal} {n : Nat} (h : ringShape j n) (hn : n < 2048) : j.full = false := by
  obtain ⟨-, -, hfull⟩ := h
  rw [Bool.eq_false_iff]
  exact fun hf => absurd (hfull.mp hf) (Nat.ne_of_lt hn)

theorem tableGet_withoutRun (start : Slot) (length : Nat) (records : Table Record) (slot : Slot) :
    tableGet (withoutRun start length records) slot.toNat =
      if (slot - start).toNat < length then none else tableGet records slot.toNat := by
  rw [withoutRun, tableGet_filter_key records fun k => !inRun start length (BitVec.ofNat 11 k)]
  rw [BitVec.ofNat_toNat, BitVec.setWidth_eq, inRun]
  by_cases h : (slot - start).toNat < length
  · rw [if_pos h, decide_eq_true h]; rfl
  · rw [if_neg h, decide_eq_false h]; rfl

/-- The journal once the innermost run is released, from the tail where it is the only one (03 R43). -/
def releasedJournal (e : Epoch) (r : List Epoch) (j : Journal) : Journal :=
  if r = [] then releaseTail e j else releaseHead e j

theorem releasedJournal_records (e : Epoch) (r : List Epoch) (j : Journal) :
    (releasedJournal e r j).records = withoutRun e.runStart e.runLength j.records := by
  unfold releasedJournal; split <;> rfl

theorem releasedJournal_lowArmed (e : Epoch) (r : List Epoch) (j : Journal) :
    (releasedJournal e r j).lowArmed = j.lowArmed := by
  unfold releasedJournal; split <;> rfl

/-- The ring once the innermost run is released: the head and the tail, the runs that stay, and the stretch. -/
theorem releasedJournal_ring (hring : ringLawful s) (hstack : s.ec.stack = e :: r) :
    (releasedJournal e r s.jr).head = (if r = [] then s.jr.head else e.runStart) ∧
    (releasedJournal e r s.jr).tail = (if r = [] then s.jr.head else s.jr.tail) ∧
    runsFrom (releasedJournal e r s.jr).tail r = some (releasedJournal e r s.jr).head ∧
    ringShape (releasedJournal e r s.jr) (runTotal r) := by
  obtain ⟨hruns, hshape⟩ := runs_of_ringLawful hring
  rw [hstack] at hruns hshape
  by_cases hr : r = []
  · subst hr
    obtain ⟨htail, hshape'⟩ := runs_releaseTail hshape
    simp only [releasedJournal, if_true]
    exact ⟨rfl, htail, congrArg some htail, hshape'⟩
  · obtain ⟨hruns', hshape'⟩ := runs_releaseHead hruns hshape
    simp only [releasedJournal, if_neg hr]
    refine ⟨?_, rfl, hruns', hshape'⟩
    change s.jr.head - BitVec.ofNat 11 e.runLength = e.runStart
    rw [(runsFrom_cons.mp hruns).2, BitVec.add_sub_cancel]

/-- The used count is the run lengths' sum; the released run's slots are free again. -/
theorem runLength_le_used (hring : ringLawful s) (hstack : s.ec.stack = e :: r) :
    usedCount s.jr = e.runLength + runTotal r := by
  have hshape := (runs_of_ringLawful hring).2
  rw [usedCount_of_shape hshape, hstack, runTotal_cons]

theorem freeCount_released (hring : ringLawful s) (hstack : s.ec.stack = e :: r) :
    freeCount (releasedJournal e r s.jr) = freeCount s.jr + e.runLength := by
  obtain ⟨-, -, -, hshape⟩ := releasedJournal_ring hring hstack
  have hused := runLength_le_used hring hstack
  have hle := usedCount_le s.jr
  rw [freeCount_of_shape hshape, freeCount]
  change 2048 - runTotal r = 2048 - usedCount s.jr + e.runLength
  omega

/-- The watermark comparison after a release: armed anew, and no event (03 R47). -/
theorem testLowWater_released (hring : ringLawful s) (hwater : waterLawful s) (hstack : s.ec.stack = e :: r) :
    testLowWater none { s with jr := releasedJournal e r s.jr } = { s with
      jr := { releasedJournal e r s.jr with lowArmed := decide (s.cfg.lowWater ≤ freeCount s.jr + e.runLength) } } := by
  have hfree := freeCount_released hring hstack
  rw [testLowWater_eq_waterTested (s := { s with jr := releasedJournal e r s.jr }) hfree]
  have htested : waterTested { s with jr := releasedJournal e r s.jr } (freeCount s.jr + e.runLength) none = s.eq := by
    refine (?_ : _ = waterTested s (freeCount s.jr + e.runLength) none).trans (waterTested_of_more hwater (by omega))
    simp only [waterTested, releasedJournal_lowArmed]
    rfl
  rw [htested]

/-- The innermost epoch's end with its run released and its identifiers retired, but for its event (05 R85, R87). -/
def afterRelease (pass : BitVec 16) (e : Epoch) (r : List Epoch) (s : State) : State :=
  { s with
    ec := { s.ec with stack := r, closingOrigin := none }
    jr := { releasedJournal e r s.jr with lowArmed := decide (s.cfg.lowWater ≤ freeCount s.jr + e.runLength) }
    ip := retiredTo pass s e.ids
    ss := scrubberAfter s e.ids }

theorem popEpoch_released {pass : BitVec 16} (hring : ringLawful s) (hwater : waterLawful s)
    (hstack : s.ec.stack = e :: r) :
    popEpoch (retire pass e.ids (testLowWater none { s with jr := releasedJournal e r s.jr })) =
      afterRelease pass e r s := by
  rw [testLowWater_released hring hwater hstack]
  refine (congrArg popEpoch (retire_parts ..)).trans ?_
  simp only [popEpoch, hstack, List.tail_cons]
  rfl

theorem commitOuter_of_stack (hring : ringLawful s) (hwater : waterLawful s) (hstack : s.ec.stack = [e]) :
    commitOuter e s =
      { afterRelease (eligibleAfter s) e [] s with eq := posted s .COMMITTED (some e.sequence) none 0 } :=
  (congrArg (postEvent .COMMITTED (some e.sequence) none 0) (popEpoch_released hring hwater hstack)).trans rfl

theorem abandonInnermost_of_stack (pass : BitVec 16) (hring : ringLawful s) (hwater : waterLawful s)
    (hstack : s.ec.stack = e :: r) : abandonInnermost pass s =
      { afterRelease pass e r s with eq := posted s .ABANDONED (some e.sequence) none e.runLength } := by
  simp only [abandonInnermost, hstack]
  exact (congrArg (postEvent .ABANDONED (some e.sequence) none (detail e.runLength))
    (popEpoch_released hring hwater hstack)).trans rfl

variable {pass : BitVec 16}

/-- The journal of `afterRelease` as the statements write it. -/
theorem afterRelease_jr_eq (hring : ringLawful s) (hstack : s.ec.stack = e :: r) : (afterRelease pass e r s).jr =
    ⟨if r = [] then s.jr.head else e.runStart, if r = [] then s.jr.head else s.jr.tail,
      (afterRelease pass e r s).jr.full, (afterRelease pass e r s).jr.records,
      decide (s.cfg.lowWater ≤ freeCount s.jr + e.runLength)⟩ := by
  obtain ⟨hhead, htail, -, -⟩ := releasedJournal_ring hring hstack
  rw [← hhead, ← htail]
  rfl

/-- The only run released leaves the ring empty, and armed. -/
theorem afterRelease_jr_outer (hring : ringLawful s) (hconfig : configLawful s) (hstack : s.ec.stack = [e]) :
    (afterRelease pass e [] s).jr =
      ⟨s.jr.head, s.jr.head, false, (afterRelease pass e [] s).jr.records, true⟩ := by
  have hempty : ringShape (releasedJournal e [] s.jr) 0 := (releasedJournal_ring hring hstack).2.2.2
  have hfull : (afterRelease pass e [] s).jr.full = false := full_of_shape hempty (by decide)
  have harmed : s.cfg.lowWater ≤ freeCount s.jr + e.runLength := by
    have hused := runLength_le_used hring hstack
    have hsum := usedCount_add_freeCount s.jr
    have hmax : s.cfg.lowWater ≤ 2048 := hconfig.2.2.2
    simp only [runTotal, List.map_nil, List.sum_nil] at hused
    omega
  rw [afterRelease_jr_eq hring hstack, hfull, decide_eq_true harmed]
  rfl

theorem afterRelease_records (pass : BitVec 16) (slot : Slot) : tableGet (afterRelease pass e r s).jr.records slot.toNat =
    if (slot - e.runStart).toNat < e.runLength then none else tableGet s.jr.records slot.toNat := by
  rw [show (afterRelease pass e r s).jr.records = _ from releasedJournal_records e r s.jr, tableGet_withoutRun]

theorem afterRelease_laws (q : EventQueue) (hring : ringLawful s) (hstack : s.ec.stack = e :: r) :
    ringLawful { afterRelease pass e r s with eq := q } ∧ waterLawful { afterRelease pass e r s with eq := q } := by
  obtain ⟨-, -, hruns, hshape⟩ := releasedJournal_ring hring hstack
  have hfree : freeCount (afterRelease pass e r s).jr = freeCount s.jr + e.runLength := freeCount_released hring hstack
  refine ⟨⟨hruns, usedCount_of_shape hshape⟩, ?_⟩
  rw [waterLawful]
  change decide _ = true ↔ s.cfg.lowWater ≤ freeCount (afterRelease pass e r s).jr
  rw [decide_eq_true_iff, hfree]

theorem afterRelease_used (pass : BitVec 16) (hring : ringLawful s) (hstack : s.ec.stack = e :: r) :
    usedCount (afterRelease pass e r s).jr = usedCount s.jr - e.runLength := by
  have hshape : ringShape (afterRelease pass e r s).jr (runTotal r) := (releasedJournal_ring hring hstack).2.2.2
  rw [usedCount_of_shape hshape, runLength_le_used hring hstack, Nat.add_sub_cancel_left]

theorem commitMerge_of_stack {p : Epoch} (hstack : s.ec.stack = e :: p :: r) : commitMerge e p s = { s with
    ec := { s.ec with stack := mergedParent e p :: r, closingOrigin := none }
    ip := poolAfter s (mergeRetires e p)
    ss := scrubberAfter s (mergeRetires e p)
    eq := posted s .COMMITTED (some e.sequence) none (p.sequence.toNat % 65536) } := by
  have hdetail : p.sequence.setWidth 16 = detail (p.sequence.toNat % 65536) := by
    apply BitVec.eq_of_toNat_eq
    simp [detail, BitVec.toNat_setWidth]
  have hstack' : mapInnermost (fun _ => mergedParent e p) (popEpoch s).ec =
      { s.ec with stack := mergedParent e p :: r, closingOrigin := none } := by
    simp only [mapInnermost, popEpoch, hstack, List.tail_cons]
  rw [commitMerge, hstack', hdetail]
  exact (congrArg (postEvent .COMMITTED (some e.sequence) none _) (retire_parts ..)).trans rfl

end

/-! ## Every epoch abandoned (05 R88) -/

section
variable {s : State} {pass : BitVec 16}

theorem posted_accepted (h : s.eq.queue.length < 32) (k : EventKind) (sq : Option (BitVec 32)) (l : Option Line) (n : Nat) :
    posted s k sq l n = ⟨s.eq.queue ++ [⟨s.eq.counter, k, sq, l, BitVec.ofNat 16 n⟩], s.eq.lost, s.eq.counter + 1,
      (posted s k sq l n).alert⟩ := by
  simp only [posted, if_pos h]

theorem retiredTo_append {s t : State} (a b : List Ident) (h : t.ip = retiredTo pass s a) :
    retiredTo pass t b = retiredTo pass s (a ++ b) := by
  simp [retiredTo, h]

theorem scrubberAfter_append {s t : State} (a b : List Ident) (h : t.ss = scrubberAfter s a) (hnow : t.now = s.now) :
    scrubberAfter t b = scrubberAfter s (a ++ b) := by
  by_cases ha : a ≠ [] ∧ s.ss.sweeping = false
  · have hss : t.ss = ⟨true, 0, s.ss.pass + 1, s.now⟩ := h.trans (if_pos ha)
    simp [scrubberAfter, hss, ha]
  · have hss : t.ss = s.ss := h.trans (if_neg ha)
    by_cases hsweep : s.ss.sweeping = false
    · have hnil : a = [] := by_contra fun hne => ha ⟨hne, hsweep⟩
      simp [scrubberAfter, hss, hnil, hnow]
    · simp [scrubberAfter, hss, hsweep]

/-- What the ABANDONED events of epochs say, in their order (05 R88). -/
def abandonedEvents (l : List Epoch) : List (EventKind × Option (BitVec 32) × Option Line × BitVec 16) :=
  l.map fun x => (.ABANDONED, some x.sequence, none, BitVec.ofNat 16 x.runLength)

/-- A state once all the epochs `l` of its stack, `outer` the outermost, have been abandoned. -/
def abandonedAll (pass : BitVec 16) (l : List Epoch) (outer : Epoch) (s u : State) : Prop :=
  u = { s with
    ec := { s.ec with stack := [], closingOrigin := none }
    jr := ⟨outer.runStart + BitVec.ofNat 11 outer.runLength, outer.runStart + BitVec.ofNat 11 outer.runLength, false,
      u.jr.records, true⟩
    ip := retiredTo pass s (l.flatMap (·.ids))
    ss := scrubberAfter s (l.flatMap (·.ids))
    eq := ⟨u.eq.queue, s.eq.lost, s.eq.counter + BitVec.ofNat 16 l.length, u.eq.alert⟩ } ∧
  (∀ slot : Slot, tableGet u.jr.records slot.toNat =
    if ∃ x ∈ l, (slot - x.runStart).toNat < x.runLength then none else tableGet s.jr.records slot.toNat) ∧
  ∃ q, u.eq.queue = s.eq.queue ++ q ∧
    q.map (fun x => (x.kind, x.epochSequence, x.line, x.detail)) = abandonedEvents l

theorem abandonedAll_foldl {outer : Epoch} : ∀ {l : List Epoch} {s : State}, s.ec.stack = l → l.getLast? = some outer →
    ringLawful s → waterLawful s → configLawful s → s.eq.queue.length + l.length ≤ 32 →
    abandonedAll pass l outer s (l.foldl (fun t _ => abandonInnermost pass t) s) := by
  intro l
  induction l with
  | nil => intro s hstack houter; cases houter
  | cons e r ih =>
    intro s hstack houter hring hwater hconfig hroom
    rw [List.length_cons] at hroom
    rw [List.foldl_cons, abandonInnermost_of_stack pass hring hwater hstack,
      posted_accepted (by omega) .ABANDONED (some e.sequence) none e.runLength]
    generalize (posted s .ABANDONED (some e.sequence) none e.runLength).alert = al
    let t : State := { afterRelease pass e r s with
      eq := ⟨s.eq.queue ++ [⟨s.eq.counter, .ABANDONED, some e.sequence, none, BitVec.ofNat 16 e.runLength⟩], s.eq.lost,
        s.eq.counter + 1, al⟩ }
    change abandonedAll pass (e :: r) outer s (r.foldl (fun t _ => abandonInnermost pass t) t)
    by_cases hr : r = []
    · subst hr
      obtain rfl : e = outer := Option.some.inj houter
      have hhead : s.jr.head = e.runStart + BitVec.ofNat 11 e.runLength := by
        have hruns := hring.1
        rw [hstack] at hruns
        exact (runsFrom_cons.mp hruns).2
      refine ⟨?_, fun slot => ?_, [⟨s.eq.counter, .ABANDONED, some e.sequence, none, BitVec.ofNat 16 e.runLength⟩],
        rfl, rfl⟩
      · have hjr : t.jr = _ := afterRelease_jr_outer (pass := pass) hring hconfig hstack
        rw [hhead] at hjr
        rw [List.flatMap_cons, List.flatMap_nil, List.append_nil, List.foldl_nil, ← hjr]
        rfl
      · rw [show tableGet (List.foldl _ t []).jr.records slot.toNat = _ from afterRelease_records pass slot]
        simp
    · obtain ⟨hring', hwater'⟩ := afterRelease_laws (pass := pass) t.eq hring hstack
      have houter' : r.getLast? = some outer := by
        rwa [List.getLast?_cons_of_ne_nil hr] at houter
      obtain ⟨hu, hrecords, q, hqueue, hevents⟩ := ih (s := t) rfl houter' hring' hwater' hconfig (by
        simp only [t, List.length_append, List.length_singleton]; omega)
      generalize r.foldl (fun t _ => abandonInnermost pass t) t = u at hu hrecords hqueue ⊢
      refine ⟨hu.trans ?_, fun slot => ?_,
        ⟨s.eq.counter, .ABANDONED, some e.sequence, none, BitVec.ofNat 16 e.runLength⟩ :: q, ?_, ?_⟩
      · rw [retiredTo_append (t := t) e.ids _ rfl, scrubberAfter_append (t := t) e.ids _ rfl rfl, List.flatMap_cons,
          List.length_cons, Nat.add_comm r.length 1, BitVec.ofNat_add, ← BitVec.add_assoc]
        rfl
      · rw [hrecords slot, show tableGet t.jr.records slot.toNat = _ from afterRelease_records pass slot]
        simp only [List.mem_cons, exists_eq_or_imp]
        by_cases he : (slot - e.runStart).toNat < e.runLength <;> simp only [he, true_or, false_or, if_true, if_false, ite_self]
      · rw [hqueue, List.append_cons]
      · rw [List.map_cons, hevents]
        rfl

end

/-- Settles O42. -/
theorem commitsReleaseOrMerge : Obligations.CommitsReleaseOrMerge := by
  refine ⟨fun e s hstack he hp hset hholds hring hwater hconfig => ?_, fun e p r s hstack he hp hopen hset hholds => ?_⟩
  · have hperform : performPending e s = (commitOuter e s, closingEnd (e.runLength != 0)) := by
      simp only [performPending, hp, hstack]
    rw [commitOuter_of_stack hring hwater hstack] at hperform
    refine ⟨_, exec_drainCompletion_ends hstack he hset hperform hholds ?_, ?_, afterRelease_records (eligibleAfter s)⟩
    · exact innermostState_ne_draining_of_open nofun
    · have hjr := afterRelease_jr_outer (pass := eligibleAfter s) hring hconfig hstack
      rw [← hjr]
      rfl
  · have hperform : performPending e s = (commitMerge e p s, closingEnd false) := by
      simp only [performPending, hp, hstack]
    rw [commitMerge_of_stack hstack] at hperform
    have hnext : (mergedParent e p).state ≠ .DRAINING := by simp [mergedParent, hopen]
    have hexec := exec_drainCompletion_ends hstack he hset hperform hholds
      (by rw [innermostState_of_stack rfl]; exact fun h => hnext (Option.some.inj h))
    rw [hexec]
    refine ⟨fun hroom => ?_, fun hroom => ?_⟩
    · rw [show mergeRetires e p = [] from if_pos hroom, poolAfter_nil, scrubberAfter_nil, mergedParent, if_pos hroom]
    · rw [show mergeRetires e p = e.ids from if_neg (Nat.not_le.mpr hroom), mergedParent, if_neg (Nat.not_le.mpr hroom)]

/-- Settles O44. -/
theorem abandonedRunsAreReleased : Obligations.AbandonedRunsAreReleased := by
  intro e r s hstack he hopen hset hholds hring hwater hconfig
  refine ⟨fun hp => ?_, fun outer hp houter hroom => ?_⟩
  · have hperform : performPending e s = (abandonInnermost (eligibleAfter s) s, closingEnd (e.runLength != 0)) := by
      simp only [performPending, hp]
    rw [abandonInnermost_of_stack (eligibleAfter s) hring hwater hstack] at hperform
    refine ⟨_, exec_drainCompletion_ends hstack he hset hperform hholds ?_, ?_, afterRelease_used (eligibleAfter s) hring hstack,
      afterRelease_records (eligibleAfter s)⟩
    · exact innermostState_ne_draining_of_open hopen
    · rw [← afterRelease_jr_eq hring hstack]
      rfl
  · have hperform : performPending e s = (discardAll s, closingEnd (s.ec.stack.any fun x => x.runLength != 0)) := by
      simp only [performPending, hp]
    obtain ⟨hu, hrecords, q, hqueue, hevents⟩ :=
      abandonedAll_foldl (pass := eligibleAfter s) rfl houter hring hwater hconfig hroom
    change performPending e s = (s.ec.stack.foldl _ s, _) at hperform
    generalize s.ec.stack.foldl (fun t _ => abandonInnermost (eligibleAfter s) t) s = u at hperform hu hrecords hqueue
    have hstack' : u.ec.stack = [] := by rw [hu]
    have hholds' : u.holds = [] := by rw [hu]; exact hholds
    refine ⟨u, exec_drainCompletion_ends hstack he hset hperform hholds' ?_, hu, hrecords, ?_, ?_⟩
    · exact innermostState_ne_draining_of_open (by simp [hstack'])
    · rw [hqueue, List.take_left]
    · rw [hqueue, List.drop_left, hevents]
      rfl

end Sys2Proof.Machine
end


section
/-! PROOFS. Rollbacks: what a completed drain begins, the newest record removed or written back, the end, and the exits
from HALTED (05 R89 to R99; O15, O45, O46). -/

namespace Sys2Proof.Machine
open Sys2Proof.Safety

section
variable {s u : State} {e e' : Epoch} {r : List Epoch} {slot : Slot} {c : Record} {d : Data} {tag : DownTag} {w : Bool}

/-! ## A restore step at the front (05 R91) -/

theorem recordLine_of_record (hrec : tableGet s.jr.records slot.toNat = some c) : recordLine s slot = c.line := by
  simp [recordLine, hrec]

theorem issueRestore_of_record {line : Line} (hrec : tableGet s.jr.records slot.toNat = some c) :
    issueRestore slot line d tag s = { s with
      ec := { s.ec with sequencer := .WRITING slot }
      jr := { s.jr with records := tableSet s.jr.records slot.toNat { c with state := .RESTORING } }
      dp := { s.dp with tracker := tableSet s.dp.tracker tag.val (entryNow s .RESTORE_WRITE .sequencer line) }
      downTx := s.downTx ++ [.write tag line (BitVec.allOnes 64) d] } := by
  have hrecords := tableUpdate_of_get hrec fun r => { r with state := .RESTORING }
  simp only [issueRestore, updateRecord, issue_jr, hrecords]
  rfl

theorem restoreAtFront_access (hrec : tableGet s.jr.records slot.toNat = some c) (hpay : c.payload = some d)
    (hl : s.dp.link = .UP) (hfree : lowestFree s tag) (hhand : w = true ∨ s.dp.tagWait = []) :
    restoreAtFront slot w s = (issueRestore slot c.line d tag s, []) := by
  have hfree' := (freeTag_iff s tag).mpr hfree
  have hhand' : tagAtHand s w = true := by
    rcases hhand with h | h <;> simp [tagAtHand, hfree', h]
  have hpay' : payloadOf s slot = some d := by simp [payloadOf, hrec, hpay]
  simp [restoreAtFront, hl, hfree', hpay', hhand', recordLine_of_record hrec]

theorem atFront_restore {line : Line} {rest : List Step} (hchain : chainOf s line = .restore slot :: rest)
    (hq : s.ec.sequencer = .PLACED slot) (hw : Step.restore slot ∉ s.dp.tagWait) :
    atFront line s = restoreAtFront slot false s := by
  simp [atFront, hchain, hq, hw]

/-! ## The newest record taken up (05 R90, R92, R93) -/

/-- The restore sequencer IDLE under the RESTORING epoch `e`. -/
def atNewest (s : State) (e : Epoch) (r : List Epoch) : Prop :=
  s.ec.stack = e :: r ∧ e.state = .RESTORING ∧ s.ec.sequencer = .IDLE

theorem takeUp_end_of_stack (h : atNewest s e r) (hrun : e.runLength = 0) :
    takeUpNewest s = (endRollback e s, closingEnd s.ec.removedSome) := by
  obtain ⟨hstack, he, hq⟩ := h
  simp [takeUpNewest, innermost, hstack, he, hq, hrun]

theorem takeUp_void_of_stack (h : atNewest s e r) (hrun : 1 ≤ e.runLength)
    (hrec : tableGet s.jr.records (s.jr.head - 1).toNat = some c) (hvoid : c.state = .VOID) :
    takeUpNewest s = (removeNewest false s, [.takeUp]) := by
  obtain ⟨hstack, he, hq⟩ := h
  simp only [takeUpNewest, innermost, hstack, List.head?_cons, he, hq, ne_eq, not_true, or_self, if_false,
    Nat.ne_of_gt hrun, hrec, hvoid]

theorem takeUp_held_of_stack (h : atNewest s e r) (hrun : 1 ≤ e.runLength)
    (hrec : tableGet s.jr.records (s.jr.head - 1).toNat = some c) (hheld : c.state = .HELD) :
    takeUpNewest s = if s.dp.link = .DOWN then (failRestore .LINK_DOWN (s.jr.head - 1) s, [])
      else (placeRestore (s.jr.head - 1) c.line s, [.front c.line]) := by
  obtain ⟨hstack, he, hq⟩ := h
  simp only [takeUpNewest, innermost, hstack, List.head?_cons, he, hq, ne_eq, not_true, or_self, if_false,
    Nat.ne_of_gt hrun, hrec, hheld]

/-- The epoch once its rollback has ended, and the identifiers (05 R93). -/
def rolledBack (e : Epoch) (r : List Epoch) (s : State) : State :=
  { s with
    ec := { s.ec with stack := r, closingOrigin := none }
    ip := poolAfter s e.ids
    ss := scrubberAfter s e.ids
    eq := posted s .RESTORED (some e.sequence) none e.restored }

theorem endRollback_of_stack (h : atNewest s e r) : endRollback e s = rolledBack e r s := by
  obtain ⟨hstack, -, hq⟩ := h
  have hpop : popEpoch s = { s with ec := { s.ec with stack := r, closingOrigin := none } } := by
    simp only [popEpoch, hstack, List.tail_cons]
  have hidle : { s.ec with stack := r, closingOrigin := none, sequencer := .IDLE } =
      ({ s.ec with stack := r, closingOrigin := none } : EpochController) := by rw [← hq]
  simp only [endRollback, hpop, retire_parts, hidle]
  rfl

/-- A rollback with an empty run ends, and lets nothing go where nothing is held. -/
theorem runAgenda_takeUp_end (h : atNewest s e r) (hrun : e.runLength = 0) (hholds : s.holds = [])
    (hopen : ∀ x ∈ r, x.state = .OPEN) : runAgenda 4 [.takeUp] s = some (rolledBack e r s) := by
  rw [runAgenda_cons, perform, takeUp_end_of_stack h hrun, endRollback_of_stack h, List.append_nil]
  exact closingEnd_empty (s := rolledBack e r s) _ hholds (innermostState_ne_draining_of_open hopen) 0

/-- The newest record's write issued (05 R91). -/
def writingBack (slot : Slot) (c : Record) (d : Data) (tag : DownTag) (s : State) : State :=
  { s with
    ec := { s.ec with sequencer := .WRITING slot }
    jr := { s.jr with records := tableSet s.jr.records slot.toNat { c with state := .RESTORING } }
    lht := tableSet s.lht c.line.toNat [.restore slot]
    dp := { s.dp with tracker := tableSet s.dp.tracker tag.val (entryNow s .RESTORE_WRITE .sequencer c.line) }
    downTx := s.downTx ++ [.write tag c.line (BitVec.allOnes 64) d] }

/-- The newest record's step placed on a line without a chain (04 R64, 05 R90). -/
def placedStep (slot : Slot) (line : Line) (s : State) : State :=
  { s with ec := { s.ec with sequencer := .PLACED slot }, lht := tableSet s.lht line.toNat [.restore slot] }

theorem placeRestore_of_nil {line : Line} (hchain : chainOf s line = []) :
    placeRestore slot line s = placedStep slot line s := by
  simp only [placeRestore, hchain, placeAhead, overtaken, putChain_of_ne_nil (List.cons_ne_nil _ _)]
  rfl

/-- A HELD newest record on a line without a chain, with a tag at hand, is written back at once. -/
theorem runAgenda_takeUp_writes (h : atNewest s e r) (hrun : 1 ≤ e.runLength)
    (hrec : tableGet s.jr.records (s.jr.head - 1).toNat = some c) (hheld : c.state = .HELD) (hpay : c.payload = some d)
    (hchain : chainOf s c.line = []) (htag : tagReady s tag) :
    runAgenda 2 [.takeUp] s = some (writingBack (s.jr.head - 1) c d tag s) := by
  obtain ⟨hlink, hfree, hwait⟩ := htag
  have hplace : takeUpNewest s = (placedStep (s.jr.head - 1) c.line s, [.front c.line]) := by
    rw [takeUp_held_of_stack h hrun hrec hheld, if_neg (by simp [hlink]), placeRestore_of_nil hchain]
  have hfront : atFront c.line (placedStep (s.jr.head - 1) c.line s) =
      (writingBack (s.jr.head - 1) c d tag s, []) := by
    rw [atFront_restore (s := placedStep (s.jr.head - 1) c.line s) (chainOf_tableSet rfl) rfl
        (by simp [placedStep, hwait]),
      restoreAtFront_access (s := placedStep (s.jr.head - 1) c.line s) hrec hpay hlink hfree (.inr hwait),
      issueRestore_of_record (s := placedStep (s.jr.head - 1) c.line s) hrec]
    rfl
  rw [runAgenda_cons, perform, hplace, List.append_nil]
  exact runAgenda_one hfront

/-! ## The newest record removed (03 R44) -/

theorem ringLawful_replace (h : ringLawful s) (hstack : s.ec.stack = e :: r) (hjr : u.jr = s.jr)
    (hu : u.ec.stack = e' :: r) (hs : e'.runStart = e.runStart) (hl : e'.runLength = e.runLength) : ringLawful u := by
  obtain ⟨hruns, hused⟩ := h
  rw [hstack] at hruns hused
  refine ⟨?_, ?_⟩
  · rwa [hjr, hu, runsFrom_cons, hs, hl, ← runsFrom_cons]
  · rw [hjr, hu, hused, List.map_cons, List.map_cons, hl]

/-- The newest record gone from the ring and from its epoch's run. -/
def withoutNewest (w : Bool) (e : Epoch) (r : List Epoch) (s : State) : State :=
  { s with
    ec := { s.ec with
      stack := { e with runLength := e.runLength - 1, restored := e.restored + bit w } :: r
      removedSome := true }
    jr := ⟨s.jr.head - 1, s.jr.tail, false, tableErase s.jr.records (s.jr.head - 1).toNat,
      decide (s.cfg.lowWater ≤ freeCount s.jr + 1)⟩ }

theorem freeCount_dropNewest (hring : ringLawful s) (hstack : s.ec.stack = e :: r) (hrun : 1 ≤ e.runLength)
    (records : Table Record) (armed : Bool) :
    ringShape ⟨s.jr.head - 1, s.jr.tail, false, records, armed⟩ (runTotal (e :: r) - 1) ∧
      freeCount ⟨s.jr.head - 1, s.jr.tail, false, records, armed⟩ = freeCount s.jr + 1 := by
  obtain ⟨hruns, hshape⟩ := runs_of_ringLawful hring
  rw [hstack] at hruns hshape
  obtain ⟨-, hshape'⟩ := runs_drop (e' := { e with runLength := e.runLength - 1 }) hruns hshape hrun records rfl rfl
  have htotal : runTotal ({ e with runLength := e.runLength - 1 } :: r) = runTotal (e :: r) - 1 := by
    simp only [runTotal_cons]; omega
  rw [htotal] at hshape'
  refine ⟨hshape', ?_⟩
  have hfree' : freeCount ⟨s.jr.head - 1, s.jr.tail, false, records, armed⟩ = _ := freeCount_of_shape hshape'
  rw [hfree', freeCount_of_shape hshape]
  have hle := hshape.1
  rw [runTotal_cons] at hle ⊢
  omega

theorem removeNewest_of_stack (hring : ringLawful s) (hwater : waterLawful s) (hstack : s.ec.stack = e :: r)
    (hrun : 1 ≤ e.runLength) : removeNewest w s = withoutNewest w e r s := by
  have hfree := (freeCount_dropNewest hring hstack hrun (tableErase s.jr.records (s.jr.head - 1).toNat)
    s.jr.lowArmed).2
  have htest := testLowWater_eq_waterTested (x := none) (s := dropNewest w s) hfree
  have heq : waterTested (dropNewest w s) (freeCount s.jr + 1) none = s.eq := by
    refine if_neg fun ⟨harmed, hlow⟩ => ?_
    have hle := hwater.mp harmed
    change freeCount s.jr + 1 < s.cfg.lowWater at hlow
    omega
  rw [heq] at htest
  refine htest.trans ?_
  simp only [dropNewest, mapInnermost, hstack]
  rfl

theorem withoutNewest_laws (hring : ringLawful s) (hstack : s.ec.stack = e :: r) (hrun : 1 ≤ e.runLength) :
    ringLawful (withoutNewest w e r s) ∧ waterLawful (withoutNewest w e r s) := by
  obtain ⟨hshape, hfree⟩ := freeCount_dropNewest hring hstack hrun (tableErase s.jr.records (s.jr.head - 1).toNat)
    (decide (s.cfg.lowWater ≤ freeCount s.jr + 1))
  obtain ⟨hruns, hshape'⟩ := runs_of_ringLawful hring
  rw [hstack] at hruns hshape'
  refine ⟨⟨?_, ?_⟩, ?_⟩
  · exact (runs_drop (e' := { e with runLength := e.runLength - 1, restored := e.restored + bit w }) hruns hshape' hrun
      [] rfl rfl).1
  · refine (usedCount_of_shape hshape).trans ?_
    change runTotal (e :: r) - 1 = runTotal ({ e with runLength := e.runLength - 1, restored := e.restored + bit w } :: r)
    simp only [runTotal_cons]; omega
  · rw [waterLawful]
    change decide _ = true ↔ s.cfg.lowWater ≤ freeCount ⟨_, _, _, _, _⟩
    rw [hfree, decide_eq_true_iff]

theorem takeUp_void (h : atNewest s e r) (hring : ringLawful s) (hwater : waterLawful s) (hrun : 1 ≤ e.runLength)
    (hrec : tableGet s.jr.records (s.jr.head - 1).toNat = some c) (hvoid : c.state = .VOID) :
    takeUpNewest s = (withoutNewest false e r s, [.takeUp]) := by
  rw [takeUp_void_of_stack h hrun hrec hvoid, removeNewest_of_stack hring hwater h.1 hrun]

/-! ## A restore that fails (05 R95, R96) -/

/-- The epoch HALTED at the record in a slot, before the entry actions (05 R95). -/
def haltedAt (slot : Slot) (e : Epoch) (r : List Epoch) (c : Record) (lht : Table (List Step)) (waits : List Step)
    (s : State) : State :=
  { s with
    ec := { s.ec with stack := { e with state := .HALTED } :: r, sequencer := .IDLE }
    jr := { s.jr with records := tableSet s.jr.records slot.toNat { c with state := .HELD } }
    lht := lht
    dp := { s.dp with tagWait := waits } }

theorem haltEpoch_of_stack {lht : Table (List Step)} {waits : List Step} (hstack : s.ec.stack = e :: r)
    (hrec : tableGet s.jr.records slot.toNat = some c)
    (hlht : putChain s.lht c.line ((chainOf s c.line).filter fun x => x != .restore slot) = lht)
    (hwaits : (s.dp.tagWait.filter fun x => x != .restore slot) = waits) :
    haltEpoch slot s = haltedAt slot e r c lht waits s := by
  subst hlht hwaits
  have hrecords := tableUpdate_of_get hrec fun r => { r with state := .HELD }
  simp only [haltEpoch, recordLine_of_record hrec, updateRecord, hrecords, changeInnermost, setSequencer, mapInnermost,
    stopWaiting_ec, leaveChain_ec, hstack]
  rfl

theorem enterHalted_quiet (hholds : s.holds = []) (hlht : s.lht = []) : enterHalted s = s := by
  have hheld : heldOnJournal s = [] := by simp [heldOnJournal, hholds]
  have hinactive : inactiveOnJournal s = [] := by simp [inactiveOnJournal, hlht]
  simp only [enterHalted, hheld, fenceAll, List.foldl_nil, hinactive]

/-- A restore that fails with nothing held and no other step leaves the epoch HALTED. -/
theorem failRestore_quiet {waits : List Step} (cause : HaltCause) (hstack : s.ec.stack = e :: r)
    (hrec : tableGet s.jr.records slot.toNat = some c)
    (hlht : putChain s.lht c.line ((chainOf s c.line).filter fun x => x != .restore slot) = [])
    (hwaits : (s.dp.tagWait.filter fun x => x != .restore slot) = waits) (hholds : s.holds = []) :
    failRestore cause slot s = { haltedAt slot e r c [] waits s with
      eq := posted s .HALTED (some e.sequence) (some c.line) (slot.toNat + 4096 * cause.code) } := by
  rw [failRestore_eq, haltEpoch_of_stack hstack hrec hlht hwaits, recordLine_of_record hrec,
    enterHalted_quiet (s := haltedAt slot e r c [] waits s) hholds rfl]
  rfl

end

/-! ## A rollback whose drain completes (05 R89) -/

section
variable {s u : State} {e : Epoch} {r : List Epoch} {c v : Record} {d : Data} {tag : DownTag} {n : Nat}

/-- An epoch RESTORING (05 R89). -/
def restoringEpoch (e : Epoch) : Epoch := { e with state := .RESTORING, pending := none }

/-- The innermost epoch RESTORING, nothing of its run taken up yet (05 R89). -/
def startedRestore (e : Epoch) (r : List Epoch) (s : State) : State :=
  { s with ec := { s.ec with stack := restoringEpoch e :: r, closingOrigin := none } }

theorem performPending_rollback (hstack : s.ec.stack = e :: r) (hp : e.pending = some .ROLLBACK)
    (hb : e.broken = false) : performPending e s = (startedRestore e r s, [.takeUp]) := by
  have hstart : startRestore s = startedRestore e r s := by
    simp only [startRestore, mapInnermost, hstack]
    rfl
  simp only [performPending, hp, hb, hstart]
  rfl

/-- A rollback whose drain is complete goes on with its newest record. -/
theorem exec_drainCompletion_rollback (hstack : s.ec.stack = e :: r) (he : e.state = .DRAINING)
    (hset : drainSet s = []) (hp : e.pending = some .ROLLBACK) (hb : e.broken = false)
    (h : runAgenda n [.takeUp] (startedRestore e r s) = some u) (hn : n + 1 ≤ Config.agendaBound) :
    exec .drainCompletion s = .next u := by
  change settle [.drain] s = _
  refine settle_of_steps (n + 1) ?_ hn
  rw [runAgenda_cons, perform, judgeDrain_performs hstack he hset, performPending_rollback hstack hp hb, List.append_nil,
    h]

theorem exec_drainCompletion_writes (hstack : s.ec.stack = e :: r) (he : e.state = .DRAINING)
    (hset : drainSet s = []) (hp : e.pending = some .ROLLBACK) (hb : e.broken = false) (hq : s.ec.sequencer = .IDLE)
    (hrun : 1 ≤ e.runLength) (hrec : tableGet s.jr.records (s.jr.head - 1).toNat = some c) (hheld : c.state = .HELD)
    (hpay : c.payload = some d) (hchain : chainOf s c.line = []) (htag : tagReady s tag) :
    exec .drainCompletion s = .next (writingBack (s.jr.head - 1) c d tag (startedRestore e r s)) :=
  exec_drainCompletion_rollback hstack he hset hp hb
    (runAgenda_takeUp_writes (s := startedRestore e r s) ⟨rfl, rfl, hq⟩ hrun hrec hheld hpay hchain htag) (by decide)

theorem rollbackOver_iff : rollbackOver s = true ↔
    ∃ e r, s.ec.stack = e :: r ∧ e.state = .RESTORING ∧ e.runLength = 0 ∧ s.ec.sequencer = .IDLE := by
  cases hstack : s.ec.stack with
  | nil => simp [rollbackOver, innermost, hstack]
  | cons e r => simp [rollbackOver, innermost, hstack, and_assoc]

theorem exec_rollbackEnd_ends (h : atNewest s e r) (hrun : e.runLength = 0) (hholds : s.holds = [])
    (hopen : ∀ x ∈ r, x.state = .OPEN) : exec .rollbackEnd s = .next (rolledBack e r s) := by
  obtain ⟨hstack, he, hq⟩ := h
  change execRollbackEnd s = _
  rw [execRollbackEnd, if_pos (rollbackOver_iff.mpr ⟨e, r, hstack, he, hrun, hq⟩)]
  exact settle_of_steps 4 (runAgenda_takeUp_end ⟨hstack, he, hq⟩ hrun hholds hopen) (by decide)

theorem refuseRollback_of_stack {o : Origin} (hstack : s.ec.stack = e :: r) (ho : s.ec.closingOrigin = some o) :
    refuseRollback e s = { s with
      ec := { s.ec with stack := { e with state := .OPEN, pending := none } :: r, closingOrigin := none }
      eq := posted s .REFUSED (some e.sequence) none (2 + 16 * o.code + 2048) } := by
  simp only [refuseRollback, ho, mapInnermost, hstack]
  rfl

theorem ring_pred_pred (head : Slot) : head - 1 - 1 = head - 2 := by rw [sub_sub]; rfl

theorem ring_pred_ne (head : Slot) : (head - 2).toNat ≠ (head - 1).toNat := by
  intro h
  have hsame : head - 2 = head - 1 := BitVec.eq_of_toNat_eq h
  have : (2 : Slot) = 1 := by simpa using congrArg (head - ·) hsame
  exact absurd this (by decide)

end

/-- Settles O45. -/
theorem rollbacksBegin : Obligations.RollbacksBegin := by
  intro e r o s hstack he hp ho hq hset hholds hopen
  have hgoes := fun hb {n : Nat} {u : State} => exec_drainCompletion_rollback (n := n) (u := u) hstack he hset hp hb
  refine ⟨fun hb => ?_, fun hb hrun => ⟨?_, ?_⟩, fun c d tag hb hrun hrec hheld hpay hchain htag => ?_,
    fun c v hb hring hwater hrec hvoid => ⟨fun d tag hrun hrec' hheld hpay hchain htag => ?_, fun hrun => ?_⟩,
    fun c hb hrun hlink hlht hwait hrec hheld => ?_⟩
  · have hperform : performPending e s = (refuseRollback e s, closingEnd false) := by
      simp only [performPending, hp, hb, if_true]
    rw [refuseRollback_of_stack hstack ho] at hperform
    exact exec_drainCompletion_ends hstack he hset hperform hholds (by rw [innermostState_of_stack rfl]; simp)
  · exact hgoes hb (runAgenda_takeUp_end (s := startedRestore e r s) (e := restoringEpoch e) ⟨rfl, rfl, hq⟩ hrun hholds
      hopen) (by decide)
  · exact exec_rollbackEnd_ends (s := startedRestore e r s) (e := restoringEpoch e) ⟨rfl, rfl, hq⟩ hrun hholds hopen
  · exact exec_drainCompletion_writes hstack he hset hp hb hq hrun hrec hheld hpay hchain htag
  · let s1 := startedRestore e r s
    let s2 := withoutNewest false (restoringEpoch e) r s1
    have hring1 : ringLawful s1 := ringLawful_replace hring hstack rfl rfl rfl rfl
    have hrec2 : tableGet s2.jr.records (s2.jr.head - 1).toNat = some c := by
      change tableGet (tableErase s.jr.records (s.jr.head - 1).toNat) (s.jr.head - 1 - 1).toNat = some c
      rw [ring_pred_pred, tableGet_erase_other _ (ring_pred_ne _), hrec']
    have hwrites := runAgenda_takeUp_writes (s := s2) (c := c) (d := d) (tag := tag) ⟨rfl, rfl, hq⟩
      (show 1 ≤ e.runLength - 1 by omega) hrec2 hheld hpay hchain htag
    have hvoids := takeUp_void (s := s1) (c := v) ⟨rfl, rfl, hq⟩ hring1 hwater (show 1 ≤ e.runLength by omega) hrec hvoid
    refine ⟨_, hgoes hb (n := 3) (by rw [runAgenda_cons, perform, hvoids]; exact hwrites) (by decide), ?_⟩
    rw [show s2.jr.head - 1 = s.jr.head - 2 from ring_pred_pred _]
    rfl
  · let s1 := startedRestore e r s
    have hring1 : ringLawful s1 := ringLawful_replace hring hstack rfl rfl rfl rfl
    have hends := runAgenda_takeUp_end (s := withoutNewest false (restoringEpoch e) r s1)
      ⟨rfl, rfl, hq⟩ (show e.runLength - 1 = 0 by omega) hholds hopen
    have hvoids := takeUp_void (s := s1) (c := v) ⟨rfl, rfl, hq⟩ hring1 hwater (show 1 ≤ e.runLength by omega) hrec hvoid
    exact ⟨_, hgoes hb (n := 5) (by rw [runAgenda_cons, perform, hvoids]; exact hends) (by decide), rfl⟩
  · have hsame : { c with state := .HELD } = c := by rw [← hheld]
    have hidle : s.ec = { s.ec with sequencer := .IDLE } := by rw [← hq]
    have hchain : putChain (startedRestore e r s).lht c.line
        ((chainOf (startedRestore e r s) c.line).filter fun x => x != .restore (s.jr.head - 1)) = [] := by
      simp [startedRestore, chainOf, hlht, tableGet, putChain, tableErase]
    have hhalts := failRestore_quiet (s := startedRestore e r s) (waits := []) .LINK_DOWN rfl hrec hchain
      (by simp [startedRestore, hwait]) hholds
    have htakes := (takeUp_held_of_stack (s := startedRestore e r s) ⟨rfl, rfl, hq⟩ hrun hrec hheld).trans
      ((if_pos hlink).trans (congrArg (·, []) hhalts))
    refine hgoes hb (n := 1) ((runAgenda_one (task := .takeUp) (s := startedRestore e r s) htakes).trans ?_) (by decide)
    rw [haltedAt, hsame, ← hlht, ← hwait, hidle]
    rfl

/-! ## A restore write answered OK (05 R92) -/

section
variable {s u : State} {e : Epoch} {r : List Epoch} {c : Record} {tag : DownTag} {line : Line} {x n : Nat}

theorem chainOf_tableErase {t : State} (hw : tableWf s.lht = true) (h : t.lht = tableErase s.lht line.toNat) :
    chainOf t line = [] := by
  simp only [chainOf, h, tableGet_erase_same _ _ hw]

theorem chainOf_tableErase_other {t : State} {l : Line} (h : t.lht = tableErase s.lht line.toNat) (hl : l ≠ line) :
    chainOf t l = chainOf s l := by
  have hne : l.toNat ≠ line.toNat := fun hh => hl (BitVec.eq_of_toNat_eq hh)
  simp only [chainOf, h, tableGet_erase_other _ hne]

/-- A state once a restore write's OK reply has removed the newest record, on a line with no other step. -/
def wroteBack (e : Epoch) (r : List Epoch) (line : Line) (tag : DownTag) (s : State) : State :=
  { withoutNewest true e r s with
    ec := { (withoutNewest true e r s).ec with sequencer := .IDLE }
    lht := tableErase s.lht line.toNat
    dp := { s.dp with tracker := tableErase s.dp.tracker tag.val } }

theorem writeDone_restore (hring : ringLawful s) (hwater : waterLawful s) (hstack : s.ec.stack = e :: r)
    (hrun : 1 ≤ e.runLength) {slot : Slot} (hq : s.ec.sequencer = .WRITING slot) (hchain : chainOf s line = [.restore slot]) :
    writeDone tag ⟨.RESTORE_WRITE, .sequencer, line, x, none, none⟩ (removeEntry tag s) =
      (wroteBack e r line tag s, [.front line, .takeUp]) := by
  have hremove := removeNewest_of_stack (s := removeEntry tag s) (w := true) hring hwater hstack hrun
  have hleave : leaveChain line (.restore slot) (withoutNewest true e r (removeEntry tag s)) =
      { withoutNewest true e r (removeEntry tag s) with lht := tableErase s.lht line.toNat } := by
    rw [leaveChain, show chainOf (withoutNewest true e r (removeEntry tag s)) line = _ from hchain,
      List.filter_cons_of_neg (by simp), List.filter_nil, putChain_nil]
    rfl
  simp only [writeDone, removeEntry_ec, hq, hremove, hleave]
  rfl

/-- What follows a restore write's OK reply on a line with no other step. -/
theorem exec_writeReply_restored (hheld : s.held = false) (hlink : s.dp.link = .UP) (hring : ringLawful s)
    (hwater : waterLawful s) (htables : tablesLawful s) (hstack : s.ec.stack = e :: r) (hrun : 1 ≤ e.runLength)
    {slot : Slot} (hq : s.ec.sequencer = .WRITING slot) (hchain : chainOf s line = [.restore slot])
    (hentry : tableGet s.dp.tracker tag.val = some ⟨.RESTORE_WRITE, .sequencer, line, x, none, none⟩)
    (h : runAgenda n [.takeUp] (wroteBack e r line tag s) = some u) (hn : n + 1 ≤ Config.agendaBound)
    (hidle : innermostState u ≠ some .DRAINING) (hwait : u.dp.tagWait = []) :
    exec (.writeReply tag .OK) s = .next u := by
  have hnil : chainOf (wroteBack e r line tag s) line = [] := chainOf_tableErase htables.2.2.2.1.1 rfl
  have hexec : exec (.writeReply tag .OK) s = settleEvent [.front line, .takeUp] (wroteBack e r line tag s) := by
    change execWriteReply tag .OK s = _
    rw [execWriteReply, if_neg (by simp [hheld, hlink]), hentry]
    simp only [writeDone_restore hring hwater hstack hrun hq hchain]
    rfl
  have hagenda : runAgenda (n + 1) [.front line, .takeUp] (wroteBack e r line tag s) = some u := by
    rw [runAgenda_cons, perform, atFront_nil hnil]
    exact h
  rw [hexec, settleEvent_of_run (runAgenda_mono _ _ _ _ _ hagenda hn), eventEnd_empty hwait, settle_drain_idle hidle]

end

/-- Settles O46. -/
theorem restoreWritesRemoveRecords : Obligations.RestoreWritesRemoveRecords := by
  intro e r s hstack he hopen hholds hwait
  have hidle_rolled : ∀ (e' : Epoch) (v : State), innermostState (rolledBack e' r v) ≠ some .DRAINING := fun e' v =>
    innermostState_ne_draining_of_open hopen
  refine ⟨fun tag line x c hheld hlink hq hring hwater htables hrec hline hentry hchain => ?_, fun hq hrun => ?_, fun h => ?_⟩
  · intro freed
    have hgoes := fun hrun {n : Nat} {u : State} => exec_writeReply_restored (n := n) (u := u) hheld hlink hring hwater
      htables hstack hrun hq hchain hentry
    let s1 := wroteBack e r line tag s
    refine ⟨fun hrun => ?_, fun c' d tag' hrun hrec' hheld' hpay hchain' hfree => ?_, fun v hrun hrec' hvoid => ?_⟩
    · have hends := runAgenda_takeUp_end (s := s1) (r := r) ⟨rfl, he, rfl⟩ (show e.runLength - 1 = 0 by omega) hholds hopen
      exact ⟨_, hgoes (by omega) hends (by decide) (hidle_rolled _ _) hwait, rfl⟩
    · have hnil : chainOf s1 c'.line = [] := by
        by_cases hl : c'.line = line
        · rw [hl]; exact chainOf_tableErase htables.2.2.2.1.1 rfl
        · rw [chainOf_tableErase_other (s := s) rfl hl]; exact hchain'.resolve_left hl
      have hrec1 : tableGet s1.jr.records (s1.jr.head - 1).toNat = some c' := by
        change tableGet (tableErase s.jr.records (s.jr.head - 1).toNat) (s.jr.head - 1 - 1).toNat = some c'
        rw [ring_pred_pred, tableGet_erase_other _ (ring_pred_ne _), hrec']
      have hwrites := runAgenda_takeUp_writes (s := s1) (r := r) ⟨rfl, he, rfl⟩ (show 1 ≤ e.runLength - 1 by omega) hrec1
        hheld' hpay hnil (tag := tag') ⟨hlink, hfree, hwait⟩
      refine ⟨_, hgoes (by omega) hwrites (by decide) ?_ hwait, ?_⟩
      · rw [innermostState_of_stack (show (writingBack _ c' d tag' s1).ec.stack = _ from rfl)]
        simp [he]
      · rw [show s1.jr.head - 1 = s.jr.head - 2 from ring_pred_pred _]
        rfl
    · obtain ⟨hring1, hwater1⟩ := withoutNewest_laws (w := true) hring hstack (show 1 ≤ e.runLength by omega)
      have hrec1 : tableGet s1.jr.records (s1.jr.head - 1).toNat = some v := by
        change tableGet (tableErase s.jr.records (s.jr.head - 1).toNat) (s.jr.head - 1 - 1).toNat = some v
        rw [ring_pred_pred, tableGet_erase_other _ (ring_pred_ne _), hrec']
      have hfree1 : freeCount s1.jr = freeCount s.jr + 1 := (freeCount_dropNewest hring hstack (by omega) _ _).2
      have hrun1 : 1 ≤ e.runLength - 1 := by omega
      have hvoids := takeUp_void (s := s1) (r := r) ⟨rfl, he, rfl⟩ hring1 hwater1 hrun1 hrec1 hvoid
      let s2 := withoutNewest false { e with runLength := e.runLength - 1, restored := e.restored + bit true } r s1
      have hends := runAgenda_takeUp_end (s := s2) (r := r) ⟨rfl, he, rfl⟩ (show e.runLength - 1 - 1 = 0 by omega) hholds
        hopen
      refine ⟨_, hgoes (by omega) (n := 5) (by rw [runAgenda_cons, perform, hvoids]; exact hends) (by decide)
        (hidle_rolled _ s2) hwait, ?_⟩
      rw [← ring_pred_pred, show freeCount s.jr + 2 = freeCount s1.jr + 1 by rw [hfree1]]
      rfl
  · exact exec_rollbackEnd_ends ⟨hstack, he, hq⟩ hrun hholds hopen
  · change execRollbackEnd s = _
    rw [execRollbackEnd, if_neg]
    rw [rollbackOver_iff]
    rintro ⟨e', r', hstack', -, hrun, hq⟩
    obtain ⟨rfl, -⟩ := List.cons.inj (hstack.symm.trans hstack')
    exact h.elim (· hq) (· hrun)

/-! ## The exits from HALTED (05 R98, R99) -/

section
variable {s : State} {e : Epoch} {r : List Epoch} {op : EpochOp} {o : Origin}

theorem drainingEpoch_halted (h : e.state = .HALTED) :
    drainingEpoch op e = { e with state := .DRAINING, pending := pendingOf op } := by
  simp [drainingEpoch, h]

theorem beginClosing_halted (hstack : s.ec.stack = e :: r) (h : e.state = .HALTED) : beginClosing op o s = { s with
    ec := { s.ec with
      stack := { e with state := .DRAINING, pending := pendingOf op } :: r
      closingOrigin := some o } } := by
  have hkept : (beginClosing op o s).ec.removedSome = s.ec.removedSome := by
    simp [beginClosing, innermostState_of_stack hstack, h]
  rw [beginClosing_of_stack op hstack, hkept, drainingEpoch_halted h]

end

/-- Settles O15. -/
theorem closingCommandsBeginADrain : Obligations.ClosingCommandsBeginADrain := by
  intro i code op f s e r hrow hop ht hw hstack hlevel he hlink
  have hr : refusalOf s op = none := refusalOf_closing_none hop hstack he hlink
  have hbytes : acceptedBytes op s = closingBytes e := by simp [acceptedBytes, hop, innermost, hstack]
  let a := answered s code f .OK none (resultOf (closingBytes e))
  let t := beginClosing op .MGMT a
  have hexec : exec i s = settle [.drain] t := by
    rw [exec_of_epochRow hrow, commandEpoch_accepted ht hw hr, hbytes]
    simp only [acceptRequest, hop, if_false, t, a]
  have ht_eq : t = { a with ec := { s.ec with
      stack := drainingEpoch op e :: r
      closingOrigin := some .MGMT
      removedSome := t.ec.removedSome } } := beginClosing_of_stack (s := a) op hstack
  have hset : drainSet t = drainSet s := drainSet_beginClosing op a
  have hstack' : t.ec.stack = drainingEpoch op e :: r := by rw [ht_eq]
  refine ⟨⟨t, ?_, ?_, ?_, ?_, ?_⟩, fun hhalted hempty hholds hopen => ⟨?_, ?_⟩⟩
  · exact fun hne => hexec.trans ((settle_closing hset).1 hne)
  · exact fun hnil => hexec.trans ((settle_closing hset).2 hnil)
  · simp [t, a, answered]
  · simp [t, a, answered]
  · obtain ⟨hseq, hlvl, hrest⟩ := field_closingBytes (t := t) (e := e) (by simp [t, a, answered]) (by omega)
    refine ⟨hseq, hlvl, hrest, ht_eq.trans ?_⟩
    cases op <;> rfl
  · intro c d tag hopr hb hrun hq hrec hheld hpay hchain htag
    subst hopr
    have hwrites := exec_drainCompletion_writes (s := t) (c := c) (d := d) (tag := tag) hstack' rfl (hset.trans hempty)
      rfl hb hq hrun hrec hheld hpay hchain htag
    refine ⟨_, hexec.trans hwrites, ?_⟩
    rw [show t = _ from beginClosing_halted (s := a) hstack hhalted, drainingEpoch_halted hhalted]
    rfl
  · intro hopr hring hwater hconfig
    subst hopr
    have hring' : ringLawful t := ringLawful_replace hring hstack rfl hstack' rfl rfl
    have hperform : performPending (drainingEpoch .ABN e) t =
        (abandonInnermost (eligibleAfter t) t, closingEnd (e.runLength != 0)) := rfl
    rw [abandonInnermost_of_stack (eligibleAfter t) hring' hwater hstack'] at hperform
    have hends := exec_drainCompletion_ends hstack' rfl (hset.trans hempty) hperform hholds
      (innermostState_ne_draining_of_open hopen)
    refine ⟨_, hexec.trans hends, ?_, afterRelease_used (eligibleAfter t) hring' hstack',
      afterRelease_records (eligibleAfter t)⟩
    have hjr : (afterRelease (eligibleAfter t) (drainingEpoch .ABN e) r t).jr =
        ⟨if r = [] then s.jr.head else e.runStart, if r = [] then s.jr.head else s.jr.tail,
          (afterRelease (eligibleAfter t) (drainingEpoch .ABN e) r t).jr.full,
          (afterRelease (eligibleAfter t) (drainingEpoch .ABN e) r t).jr.records,
          decide (s.cfg.lowWater ≤ freeCount s.jr + e.runLength)⟩ := afterRelease_jr_eq hring' hstack'
    have hec : { t.ec with stack := r, closingOrigin := none } =
        ({ s.ec with stack := r, closingOrigin := none } : EpochController) := by
      rw [show t = _ from beginClosing_halted (s := a) hstack hhalted]
      rfl
    rw [← hjr, ← hec]
    rfl

end Sys2Proof.Machine
end


section
/-! PROOFS. The ends of requests that stand alone on their line, by a reply, a timeout or an expiry, and the replies that
belong to no request (04 R60, R68, R71; 07 R120 to R123; O33, O38, O39, O40). -/

namespace Sys2Proof.Machine
open Sys2Proof.Safety

/-! ## How such an event ends (05 R81) -/

theorem endsIn_settle_drain (u : State) : endsIn (settle [.drain] u) u :=
  ⟨fun h => h.elim settle_drain_idle settle_drain_waits, fun _ _ => rfl⟩

section
variable {s u : State} {t : HostTag} {c : Context} {line : Line} {st : HostStatus} {d : Option Data}

/-- A state once a context that stood alone on its line has ended (04 R56, R63). -/
def endedAlone (t : HostTag) (c : Context) (st : HostStatus) (d : Option Data) (s : State) : State :=
  { s with
    contexts := tableErase s.contexts t.val
    lht := tableErase s.lht c.line.toNat
    holds := withoutHold s t
    upTx := s.upTx ++ [⟨t, c.request.kind, st, d⟩] }

theorem endContext_alone (hup : s.upLink = .UP) (hchain : chainOf s c.line = [] ∨ chainOf s c.line = [.host t])
    (hwait : Step.host t ∉ s.dp.tagWait) : endContext t c st d s = endedAlone t c st d s := by
  have hnone : ((chainOf s c.line).filter fun x => x != .host t) = [] := by rcases hchain with h | h <;> simp [h]
  exact endContext_of_up hup rfl (by rw [hnone, putChain_nil]) rfl (filter_ne_of_not_mem hwait) st d

theorem chainOf_endedAlone (hw : tableWf s.lht = true) : chainOf (endedAlone t c st d s) c.line = [] :=
  chainOf_tableErase hw rfl

/-- A context that stood alone on its line ends: the event is the drain's judgement. -/
theorem settleEvent_endContext (hup : s.upLink = .UP) (hchain : chainOf s c.line = [.host t]) (hwait : s.dp.tagWait = [])
    (hw : tableWf s.lht = true) :
    settleEvent [.front c.line] (endContext t c st d s) = settle [.drain] (endedAlone t c st d s) := by
  rw [endContext_alone hup (.inr hchain) (by simp [hwait])]
  exact settleEvent_front (chainOf_endedAlone hw) hwait

end

/-! ## Replies and timeouts that reach their request (07 R120 to R122) -/

section
variable {s : State} {tag : DownTag} {t : HostTag} {c : Context} {e : TrackerEntry} {cause : HaltCause} {u : State}

theorem exec_readReply_matched {d : Data} (hheld : s.held = false) (hlink : s.dp.link = .UP)
    (he : tableGet s.dp.tracker tag.val = some e) (hread : e.purpose.isRead = true) :
    exec (.readReply tag (.OK d)) s =
      settleEvent (readDone tag e d (removeEntry tag s)).2 (readDone tag e d (removeEntry tag s)).1 := by
  change execReadReply tag (.OK d) s = _
  rw [execReadReply, if_neg (by simp [hheld, hlink]), he]
  simp only [hread, Bool.not_true]
  rfl

theorem exec_writeReply_matched (hheld : s.held = false) (hlink : s.dp.link = .UP)
    (he : tableGet s.dp.tracker tag.val = some e) (hwrite : e.purpose.isRead = false) :
    exec (.writeReply tag .OK) s =
      settleEvent (writeDone tag e (removeEntry tag s)).2 (writeDone tag e (removeEntry tag s)).1 := by
  change execWriteReply tag .OK s = _
  rw [execWriteReply, if_neg (by simp [hheld, hlink]), he]
  simp only [hwrite]
  rfl

/-- A reply of status ERROR of the kind that a purpose asks for. -/
def errorReplyOf (tag : DownTag) (p : Purpose) : Instr :=
  if p.isRead then .readReply tag .ERROR else .writeReply tag .ERROR

theorem exec_errorReply_matched (hheld : s.held = false) (hlink : s.dp.link = .UP)
    (he : tableGet s.dp.tracker tag.val = some e) : exec (errorReplyOf tag e.purpose) s = errorReply tag e s := by
  have hgate : ¬ (s.held = true ∨ s.dp.link = .DOWN) := by simp [hheld, hlink]
  by_cases hread : e.purpose.isRead = true
  · rw [errorReplyOf, if_pos hread]
    change execReadReply tag .ERROR s = _
    rw [execReadReply, if_neg hgate, he]
    simp only [hread, Bool.not_true]
    rfl
  · rw [errorReplyOf, if_neg hread]
    change execWriteReply tag .ERROR s = _
    rw [execWriteReply, if_neg hgate, he]
    simp only [Bool.not_eq_true] at hread
    simp only [hread]
    rfl

/-- The state in which an ERROR reply's entry fails: the tag free, DOWN_ERROR posted (07 R121). -/
def errorSeen (tag : DownTag) (e : TrackerEntry) (s : State) : State :=
  { s with
    dp := { s.dp with tracker := tableErase s.dp.tracker tag.val }
    eq := posted s .DOWN_ERROR none (some e.line) (tag.val + 256 * e.purpose.code) }

theorem errorReply_eq : errorReply tag e s = settleEvent [.front e.line] (failOwner tag e .ERROR (errorSeen tag e s)) := rfl

/-- The state in which a timed-out entry fails: the tag quarantined, DOWN_TIMEOUT posted (07 R122). -/
def timeoutSeen (tag : DownTag) (e : TrackerEntry) (s : State) : State :=
  { s with
    dp := { s.dp with
      tracker := tableErase s.dp.tracker tag.val
      quarantine := tableSet s.dp.quarantine tag.val e.line }
    eq := posted s .DOWN_TIMEOUT none (some e.line) (tag.val + 256 * e.purpose.code) }

theorem exec_downstreamTimeout_none (he : tableGet s.dp.tracker tag.val = none) :
    exec (.downstreamTimeout tag) s = .next s := by
  change execDownstreamTimeout tag s = _
  simp only [execDownstreamTimeout, he]

theorem exec_downstreamTimeout_early (he : tableGet s.dp.tracker tag.val = some e) (hx : s.now < e.expiry) :
    exec (.downstreamTimeout tag) s = .next s := by
  change execDownstreamTimeout tag s = _
  simp only [execDownstreamTimeout, he, if_neg (Nat.not_le.mpr hx)]

theorem exec_downstreamTimeout_reached (he : tableGet s.dp.tracker tag.val = some e) (hx : e.expiry ≤ s.now) :
    exec (.downstreamTimeout tag) s = settleEvent [.front e.line] (failOwner tag e .TIMEOUT (timeoutSeen tag e s)) := by
  change execDownstreamTimeout tag s = _
  simp only [execDownstreamTimeout, he, if_pos hx]
  rfl

/-- A forwarded request fails: its host is answered ERROR (07 R121). -/
theorem failOwner_forwarded (ho : e.owner = .context t) (hc : contextOf u t = some c)
    (hp : e.purpose = .FORWARD_READ ∨ e.purpose = .FORWARD_WRITE) :
    failOwner tag e cause u = endContext t c .ERROR none u := by
  rcases hp with hp | hp <;> simp [failOwner, ho, hc, hp]

theorem readDone_forwarded {d : Data} (ho : e.owner = .context t) (hc : contextOf u t = some c)
    (hp : e.purpose = .FORWARD_READ) : readDone tag e d u = (endContext t c .OK (some d) u, [.front e.line]) := by
  simp [readDone, ho, hc, hp]

theorem writeDone_forwarded (ho : e.owner = .context t) (hc : contextOf u t = some c) :
    writeDone tag e u = (endContext t c .OK none u, [.front e.line]) := by
  simp [writeDone, ho, hc]

end

/-- Settles O33. -/
theorem repliesEndRequests : Obligations.RepliesEndRequests := by
  intro tag t line c e s hheld hup hlink hwait htables he ho heline hc hcline hchain ended failed
  subst heline
  have hwf : tableWf s.lht = true := htables.2.2.2.1.1
  have hline : ∀ (st : HostStatus) (d : Option Data), endedAlone t c st d (removeEntry tag s) =
      { ended with upTx := s.upTx ++ [⟨t, c.request.kind, st, d⟩] } := fun st d => by
    rw [endedAlone, hcline]
    rfl
  have hends : ∀ (v : State) (st : HostStatus) (d : Option Data), v.upLink = .UP → chainOf v c.line = [.host t] →
      v.dp.tagWait = [] → tableWf v.lht = true →
      settleEvent [.front e.line] (endContext t c st d v) = settle [.drain] (endedAlone t c st d v) :=
    fun v st d h1 h2 h3 h4 => hcline ▸ settleEvent_endContext h1 h2 h3 h4
  have hchain' : chainOf s c.line = [.host t] := hcline ▸ hchain
  have hread : ∀ d, e.purpose = .FORWARD_READ → c.request = .READ → exec (.readReply tag (.OK d)) s =
      settle [.drain] { ended with upTx := s.upTx ++ [⟨t, .READ, .OK, some d⟩] } := fun d hp hr => by
    rw [exec_readReply_matched hheld hlink he (by rw [hp]; rfl),
      readDone_forwarded (u := removeEntry tag s) ho hc hp, hends (removeEntry tag s) _ _ hup hchain' hwait hwf, hline, hr]
    rfl
  have hwrite : ∀ m d, e.purpose = .FORWARD_WRITE → c.request = .WRITE m d → exec (.writeReply tag .OK) s =
      settle [.drain] { ended with upTx := s.upTx ++ [⟨t, .WRITE, .OK, none⟩] } := fun m d hp hr => by
    rw [exec_writeReply_matched hheld hlink he (by rw [hp]; rfl),
      writeDone_forwarded (u := removeEntry tag s) ho hc, hends (removeEntry tag s) _ _ hup hchain' hwait hwf, hline, hr]
    rfl
  have hfail : e.purpose = .FORWARD_READ ∨ e.purpose = .FORWARD_WRITE →
      exec (errorReplyOf tag e.purpose) s = settle [.drain] failed := fun hp => by
    rw [exec_errorReply_matched hheld hlink he, errorReply_eq, failOwner_forwarded (u := errorSeen tag e s) ho hc hp,
      hends (errorSeen tag e s) _ _ hup hchain' hwait hwf, endedAlone, hcline]
    rfl
  refine ⟨fun hidle => ⟨fun d hp hr => ?_, fun m d hp hr => ?_, fun i hi => ?_⟩, fun m d hp hr => ⟨?_, ?_⟩⟩
  · rw [hread d hp hr]; exact settle_drain_idle hidle
  · rw [hwrite m d hp hr]; exact settle_drain_idle hidle
  · have hfailed := settle_drain_idle (s := failed) hidle
    rcases hi with ⟨rfl, hp⟩ | ⟨rfl, hp⟩
    · have := hfail (.inl hp)
      rw [hp] at this
      exact this.trans hfailed
    · have := hfail (.inr hp)
      rw [hp] at this
      exact this.trans hfailed
  · rw [hwrite m d hp hr]; exact endsIn_settle_drain _
  · have := hfail (.inr hp)
    rw [hp] at this
    exact (show exec (.writeReply tag .ERROR) s = _ from this) ▸ endsIn_settle_drain failed

/-- Settles O39. -/
theorem downstreamRequestsTimeOut : Obligations.DownstreamRequestsTimeOut := by
  intro tag s
  refine ⟨exec_downstreamTimeout_none, fun e he hx => exec_downstreamTimeout_early he hx,
    fun t line c e hup hwait htables he hx ho heline hp hc hcline hchain => ?_⟩
  intro ended
  subst heline
  have hexec : exec (.downstreamTimeout tag) s = settle [.drain] ended := by
    rw [exec_downstreamTimeout_reached he hx, failOwner_forwarded (u := timeoutSeen tag e s) ho hc hp, ← hcline,
      settleEvent_endContext (s := timeoutSeen tag e s) hup (hcline ▸ hchain) hwait htables.2.2.2.1.1, endedAlone, hcline]
    rfl
  exact ⟨fun hidle => hexec.trans (settle_drain_idle hidle), hexec ▸ endsIn_settle_drain ended⟩

/-! ## Replies that belong to no request (07 R120, R123) -/

section
variable {i : Instr} {tag : DownTag} {s : State} {e : TrackerEntry}

theorem exec_reply_gated (hi : (∃ r, i = .readReply tag r) ∨ ∃ r, i = .writeReply tag r)
    (h : s.held = true ∨ s.dp.link = .DOWN) : exec i s = .next s := by
  rcases hi with ⟨r, rfl⟩ | ⟨r, rfl⟩
  · change execReadReply tag r s = _
    rw [execReadReply, if_pos h]
  · change execWriteReply tag r s = _
    rw [execWriteReply, if_pos h]

theorem exec_reply_unmatched (hi : (∃ r, i = .readReply tag r) ∨ ∃ r, i = .writeReply tag r) (hheld : s.held = false)
    (hlink : s.dp.link = .UP) (he : tableGet s.dp.tracker tag.val = none) : exec i s = unmatchedReply tag s := by
  have hgate : ¬ (s.held = true ∨ s.dp.link = .DOWN) := by simp [hheld, hlink]
  rcases hi with ⟨r, rfl⟩ | ⟨r, rfl⟩
  · change execReadReply tag r s = _
    rw [execReadReply, if_neg hgate, he]
  · change execWriteReply tag r s = _
    rw [execWriteReply, if_neg hgate, he]

theorem isRead_eq_false_iff (p : Purpose) : p.isRead = false ↔ p = .FORWARD_WRITE ∨ p = .RESTORE_WRITE := by
  cases p <;> simp [Purpose.isRead]

theorem exec_reply_mismatched (hi : (∃ r, i = .readReply tag r) ∨ ∃ r, i = .writeReply tag r) (hheld : s.held = false)
    (hlink : s.dp.link = .UP) (he : tableGet s.dp.tracker tag.val = some e)
    (hkind : (∃ r, i = .readReply tag r) ↔ e.purpose.isRead = false) : exec i s = mismatchedReply tag e s := by
  have hgate : ¬ (s.held = true ∨ s.dp.link = .DOWN) := by simp [hheld, hlink]
  rcases hi with ⟨r, rfl⟩ | ⟨r, rfl⟩
  · have hp := hkind.mp ⟨r, rfl⟩
    change execReadReply tag r s = _
    rw [execReadReply, if_neg hgate, he]
    simp only [hp, Bool.not_false, if_true]
  · have hp : e.purpose.isRead = true := by
      rw [← Bool.not_eq_false]
      exact fun h => by obtain ⟨r', hr⟩ := hkind.mpr h; cases hr
    change execWriteReply tag r s = _
    rw [execWriteReply, if_neg hgate, he]
    simp only [hp, if_true]

end

/-- Settles O38. -/
theorem unownedRepliesAreDiscarded : Obligations.UnownedRepliesAreDiscarded := by
  intro i tag s hi
  refine ⟨exec_reply_gated hi, fun hheld hlink he => ⟨fun line hq hquiet => ?_, fun hq => ?_⟩,
    fun hheld hlink e he hkind => ?_⟩
  · obtain ⟨hwait, hidle⟩ := hquiet
    rw [exec_reply_unmatched hi hheld hlink he]
    simp only [unmatchedReply, hq]
    let u := postEvent .LATE_RESPONSE none (some line) (lateDetail tag .QUARANTINED) (endQuarantine tag s)
    rw [settleEvent_of_run (u := u) (runAgenda_nil _ _), eventEnd_empty (s := u) hwait, settle_drain_idle (s := u) hidle]
    rfl
  · rw [exec_reply_unmatched hi hheld hlink he]
    simp only [unmatchedReply, hq]
    rfl
  · rw [exec_reply_mismatched hi hheld hlink he (hkind.trans (isRead_eq_false_iff _).symm)]
    rfl

/-! ## Expiries of held requests (04 R59 to R62) -/

section
variable {s : State} {t : HostTag} {line : Line} {r : HoldReason} {x : Nat} {c : Context}

theorem exec_holdExpiry_early (h : ∀ e ∈ s.holds, e.tag = t → ∀ x, e.expiry = some x → s.now < x) :
    exec (.holdExpiry t) s = .next s := by
  change execHoldExpiry t s = _
  unfold execHoldExpiry
  split
  next l g r x c hentry hc =>
    have hfound : (⟨l, g, r, some x⟩ : HoldEntry) ∈ s.holds ∧ l = t := by
      have hmem := List.mem_of_find?_eq_some hentry
      have htag := List.find?_some hentry
      exact ⟨hmem, by simpa using htag⟩
    rw [if_neg (Nat.not_le.mpr (h _ hfound.1 hfound.2 x rfl))]
  next => rfl

theorem exec_holdExpiry_reached (hentry : holdEntryOf s t = some ⟨t, line, r, some x⟩) (hc : contextOf s t = some c)
    (hx : x ≤ s.now) : exec (.holdExpiry t) s = settleEvent [.front c.line]
      (postEvent .EXPIRED (innermostSequence s) (some c.line) (expiredDetail t r) (endContext t c .EXPIRED none s)) := by
  change execHoldExpiry t s = _
  simp only [execHoldExpiry, hentry, hc, if_pos hx]

end

/-- Settles O40. -/
theorem heldRequestsExpire : Obligations.HeldRequestsExpire := by
  intro t s
  refine ⟨exec_holdExpiry_early, fun line r x c before behind hholds hbefore hx hc hline hchain hup hwait htables => ?_⟩
  intro ended
  have hentry : holdEntryOf s t = some ⟨t, line, r, some x⟩ := by
    have hnone : before.find? (fun h => h.tag == t) = none :=
      List.find?_eq_none.mpr fun h hh => by simpa using hbefore h hh
    rw [holdEntryOf, hholds, List.find?_append, hnone]
    simp
  have hwf : tableWf s.lht = true := htables.2.2.2.1.1
  have hexec : exec (.holdExpiry t) s = settle [.drain] ended := by
    rw [exec_holdExpiry_reached hentry hc hx, endContext_alone hup (hline ▸ hchain) (by simp [hwait])]
    let u := postEvent .EXPIRED (innermostSequence s) (some c.line) (expiredDetail t r) (endedAlone t c .EXPIRED none s)
    have hnil : chainOf u c.line = [] := chainOf_endedAlone (s := s) (t := t) (c := c) (st := .EXPIRED) (d := none) hwf
    refine (settleEvent_front hnil hwait).trans ?_
    simp only [u, endedAlone, hline]
    cases r <;> rfl
  exact ⟨fun hidle => hexec.trans (settle_drain_idle hidle), hexec ▸ endsIn_settle_drain ended⟩

end Sys2Proof.Machine
end


section
/-! PROOFS. Capture reads that fail and capture reads that are answered, live and orphaned (04 R73, R74; 07 R121, R122,
R127; O34, O35). -/

namespace Sys2Proof.Machine
open Sys2Proof.Safety

/-! ## A capture that fails (03 R42, 04 R74) -/

section
variable {s u : State} {tag : DownTag} {t : HostTag} {c : Context} {e : TrackerEntry} {line : Line} {slot : Slot}
  {old : Ident} {k : Fin 8} {r : Record} {cause : HaltCause}

/-- A state once a capture has failed: the record VOID, the stamp reverted, CAPTURE_FAILED posted. -/
def captureVoid (slot : Slot) (line : Line) (old : Ident) (k : Fin 8) (r : Record) (s : State) : State :=
  { s with
    stamps := stampSet s.stamps (k.val * 32768 + (line.toNat - s.regions[k].base.toNat))
      (if s.ec.stack.any fun e => e.ids.contains old then old else 0)
    jr := { s.jr with records := tableSet s.jr.records slot.toNat { r with state := .VOID, payload := none } }
    eq := posted s .CAPTURE_FAILED (some r.epochSequence) (some line) slot.toNat }

theorem failCapture_of_record (hr : tableGet s.jr.records slot.toNat = some r) (hk : lookup s line = some k) :
    failCapture slot line old s = captureVoid slot line old k r s := by
  simp only [failCapture, updateRecord, tableUpdate_of_get hr, hr, revertStamp, hk]
  rfl

theorem failOwner_captured (ho : e.owner = .context t) (hc : contextOf u t = some c) (hp : e.purpose = .CAPTURE_READ)
    (hslot : c.slot = some slot) (hold : c.oldStamp = some old) (hr : tableGet u.jr.records slot.toNat = some r)
    (hk : lookup u e.line = some k) :
    failOwner tag e cause u = endContext t c .ERROR none (captureVoid slot e.line old k r u) := by
  simp [failOwner, ho, hc, hp, hslot, hold, failCapture_of_record hr hk]

theorem failOwner_orphanedCapture (ho : e.owner = .orphaned) (hp : e.purpose = .CAPTURE_READ) (hslot : e.slot = some slot)
    (hold : e.oldStamp = some old) (hr : tableGet u.jr.records slot.toNat = some r) (hk : lookup u e.line = some k) :
    failOwner tag e cause u = leaveChain e.line (.orphan tag) (captureVoid slot e.line old k r u) := by
  simp [failOwner, ho, hp, hslot, hold, failCapture_of_record hr hk]

/-- An orphaned step that stood alone on its line leaves it. -/
theorem leaveChain_alone {x : Step} (hchain : chainOf s line = [x]) :
    leaveChain line x s = { s with lht := tableErase s.lht line.toNat } := by
  rw [leaveChain, hchain]
  simp [putChain]

theorem settleEvent_leaveChain {x : Step} (hchain : chainOf s line = [x]) (hwait : s.dp.tagWait = [])
    (hw : tableWf s.lht = true) : settleEvent [.front line] (leaveChain line x s) =
      settle [.drain] { s with lht := tableErase s.lht line.toNat } := by
  rw [leaveChain_alone hchain]
  exact settleEvent_front (chainOf_tableErase hw rfl) hwait

end

/-- An event that is the drain's judgement, as the statements put it. -/
theorem endsIn_of_settle_drain {o : Host.Outcome State Fault Refusal} {u : State} (h : o = settle [.drain] u) :
    (innermostState u ≠ some .DRAINING → o = .next u) ∧ endsIn o u :=
  ⟨fun hidle => h.trans (settle_drain_idle hidle), h ▸ endsIn_settle_drain u⟩

/-- Settles O35. -/
theorem failedCapturesAreVoid : Obligations.FailedCapturesAreVoid := by
  intro tag line slot old k r x s hwait htables hr hk failed byError byTimeout
  have hwf : tableWf s.lht = true := htables.2.2.2.1.1
  refine ⟨fun t m d hup hchain he hc => ?_, fun hchain he => ⟨fun hheld hlink => ?_, fun hx => ?_⟩⟩
  · intro answered
    refine ⟨fun hheld hlink => ?_, fun hx => ?_⟩
    · have hexec := exec_errorReply_matched hheld hlink he
      rw [errorReply_eq, failOwner_captured (e := ⟨.CAPTURE_READ, .context t, line, x, none, none⟩)
        (u := errorSeen tag _ s) rfl hc rfl rfl rfl hr hk] at hexec
      exact endsIn_of_settle_drain (u := answered byError)
        (hexec.trans (settleEvent_endContext (s := captureVoid slot line old k r (errorSeen tag _ s)) hup hchain hwait hwf))
    · have hexec := exec_downstreamTimeout_reached he hx
      rw [failOwner_captured (e := ⟨.CAPTURE_READ, .context t, line, x, none, none⟩)
        (u := timeoutSeen tag _ s) rfl hc rfl rfl rfl hr hk] at hexec
      exact endsIn_of_settle_drain (u := answered byTimeout)
        (hexec.trans (settleEvent_endContext (s := captureVoid slot line old k r (timeoutSeen tag _ s)) hup hchain hwait hwf))
  · have hexec := exec_errorReply_matched hheld hlink he
    rw [errorReply_eq, failOwner_orphanedCapture (e := ⟨.CAPTURE_READ, .orphaned, line, x, some slot, some old⟩)
      (u := errorSeen tag _ s) rfl rfl rfl rfl hr hk] at hexec
    exact endsIn_of_settle_drain (u := byError)
      (hexec.trans (settleEvent_leaveChain (s := captureVoid slot line old k r (errorSeen tag _ s)) hchain hwait hwf))
  · have hexec := exec_downstreamTimeout_reached he hx
    rw [failOwner_orphanedCapture (e := ⟨.CAPTURE_READ, .orphaned, line, x, some slot, some old⟩)
      (u := timeoutSeen tag _ s) rfl rfl rfl rfl hr hk] at hexec
    exact endsIn_of_settle_drain (u := byTimeout)
      (hexec.trans (settleEvent_leaveChain (s := captureVoid slot line old k r (timeoutSeen tag _ s)) hchain hwait hwf))

/-! ## A capture that is answered (03 R41, 04 R73) -/

section
variable {s u : State} {tag tag' : DownTag} {t : HostTag} {c : Context} {e : TrackerEntry} {line : Line} {slot : Slot}
  {r : Record} {m : Mask} {d d' : Data}

/-- A state once a capture read is answered OK: the record HELD, its region's count up by one. -/
def captureHeld (slot : Slot) (d : Data) (r : Record) (s : State) : State :=
  { s with
    regions := s.regions.set r.region { s.regions[r.region] with
      count := if s.regions[r.region].count = 4294967295#32 then 4294967295#32 else s.regions[r.region].count + 1 }
    jr := { s.jr with records := tableSet s.jr.records slot.toNat { r with state := .HELD, payload := some d } } }

theorem countUp_eq (n : BitVec 32) : countUp n = if n = 4294967295#32 then 4294967295#32 else n + 1 :=
  ite_congr rfl id fun _ => rfl

theorem holdRecord_of_record (hr : tableGet s.jr.records slot.toNat = some r) :
    holdRecord slot d s = captureHeld slot d r s := by
  simp only [holdRecord, updateRecord, tableUpdate_of_get hr, hr, countUp_eq]
  rfl

theorem covers_captureHeld (k : Fin 8) :
    (captureHeld slot d r s).regions[k].covers line = s.regions[k].covers line := by
  simp only [captureHeld, Fin.getElem_fin, Vector.getElem_set]
  split
  next hk => simp only [Region.covers, hk]
  next => rfl

theorem modeOf_captureHeld : modeOf (captureHeld slot d r s) line = modeOf s line := by
  have hlookup : lookup (captureHeld slot d r s) line = lookup s line := by simp only [lookup, covers_captureHeld]
  rw [modeOf, hlookup, modeOf]
  rcases lookup s line with - | k
  · rfl
  · simp only [captureHeld, Fin.getElem_fin, Vector.getElem_set]
    split
    next hk => simp only [hk]
    next => rfl

theorem readDone_captured (ho : e.owner = .context t) (hp : e.purpose = .CAPTURE_READ) (hc : contextOf s t = some c)
    (hslot : c.slot = some slot) (hrequest : c.request = .WRITE m d) (hr : tableGet s.jr.records slot.toNat = some r)
    (hfree : freeTag (captureHeld slot d' r s) = some tag') :
    readDone tag e d' s = (forwardWrite t e.line m d tag' (captureHeld slot d' r s), [.shown e.line m d]) := by
  simp [readDone, ho, hc, hp, completeCapture, hslot, hrequest, holdRecord_of_record hr, hfree]

theorem readDone_orphanedCapture (ho : e.owner = .orphaned) (hp : e.purpose = .CAPTURE_READ) (hslot : e.slot = some slot)
    (hr : tableGet s.jr.records slot.toNat = some r) :
    readDone tag e d' s = (leaveChain e.line (.orphan tag) (captureHeld slot d' r s), [.front e.line]) := by
  simp [readDone, ho, hp, hslot, holdRecord_of_record hr]

/-- A write shown to no watch: the event is the drain's judgement. -/
theorem settleEvent_unwatched (hwatch : unwatched s line m d) (hwait : s.dp.tagWait = []) :
    settleEvent [.shown line m d] s = settle [.drain] s := by
  have hrun : runAgenda 1 [.shown line m d] s = some s :=
    runAgenda_one (task := .shown line m d) (showWrite_unwatched hwatch)
  rw [settleEvent_of_run (runAgenda_mono 1 _ _ _ _ hrun (by decide)), eventEnd_empty hwait]

/-- An outstanding write at the front of a JOURNAL line is in the drain set (05 R80). -/
theorem drainSet_of_frontWrite {rest : List Step} (hj : isJournalLine s line = true)
    (hchain : chainOf s line = .host t :: rest) (hc : contextOf s t = some c) (hrequest : c.request = .WRITE m d)
    (hstate : c.state = .CAPTURING ∨ c.state = .FORWARDED) : drainSet s ≠ [] := by
  have hmem : (line.toNat, Step.host t :: rest) ∈ s.lht := by
    simp only [chainOf] at hchain
    split at hchain
    · subst hchain
      exact tableGet_mem ‹_›
    · exact absurd hchain (by simp)
  refine List.ne_nil_of_mem ((drainSetMembers s (.host t)).mpr ⟨_, hmem, [], rest, rfl, ?_, by simp, ?_⟩)
  · simpa using hj
  · exact .inl ⟨t, c, m, d, rfl, hc, hrequest, .inr hstate⟩

end

/-- Settles O34. -/
theorem captureReadsHoldRecords : Obligations.CaptureReadsHoldRecords := by
  intro tag line d' slot old r x s hheld hlink hwait hr held
  refine ⟨fun tag' t m d hwatch he hc hfree hdrain => ?_, fun he htables hchain => ?_⟩
  · have hfree' : freeTag (captureHeld slot d' r (removeEntry tag s)) = some tag' := (freeTag_iff held tag').mpr hfree
    have hforward := forwardWrite_of_context (t := t) (line := line) (tag := tag') (m := m) (d := d) (s := held) hc
    rw [exec_readReply_matched hheld hlink he rfl, readDone_captured (s := removeEntry tag s) rfl rfl hc rfl rfl hr hfree']
    refine (settleEvent_unwatched (s := forwardWrite t line m d tag' held) ?_ ?_).trans ?_
    · rw [hforward]; exact hwatch
    · rw [hforward]; exact hwait
    rw [hforward]
    rcases hdrain with hidle | ⟨hj, hchain⟩
    · exact settle_drain_idle hidle
    · refine settle_drain_waits (drainSet_of_frontWrite (line := line) (t := t) ?_ hchain (tableGet_set_same _ _ _) rfl (.inr rfl))
      rw [isJournalLine_iff] at hj ⊢
      exact (modeOf_captureHeld (s := s) (slot := slot) (d := d') (r := r) (line := line)).trans hj
  · have hexec := exec_readReply_matched (d := d') hheld hlink he rfl
    rw [readDone_orphanedCapture (s := removeEntry tag s) rfl rfl rfl hr] at hexec
    exact endsIn_of_settle_drain (hexec.trans
      (settleEvent_leaveChain (s := captureHeld slot d' r (removeEntry tag s)) hchain hwait htables.2.2.2.1.1))

end Sys2Proof.Machine
end


section
/-! PROOFS. Steps behind a request that ends (04 R65, R68; 07 R127; O36). -/

namespace Sys2Proof.Machine
open Sys2Proof.Safety

section
variable {s v w : State} {tag : DownTag} {t u : HostTag} {c : Context} {e : TrackerEntry} {line : Line} {d : Option Data}
  {st : HostStatus}

/-! ## A step acts at the front (04 R65 to R68) -/

/-- A front step whose access starts, or which waits, carries nothing further. -/
theorem settleEvent_front_stops (h : atFront line v = (w, [])) (hwait : w.dp.tagWait = []) :
    settleEvent [.front line] v = settle [.drain] w := by
  have hrun : runAgenda 1 [.front line] v = some w := runAgenda_one (task := .front line) h
  rw [settleEvent_of_run (runAgenda_mono 1 _ _ _ _ hrun (by decide)), eventEnd_empty hwait]

/-- A front step that ends leaves the front to the step behind it, here to none. -/
theorem settleEvent_front_ends (h : atFront line v = (w, [.front line])) (hchain : chainOf w line = [])
    (hwait : w.dp.tagWait = []) : settleEvent [.front line] v = settle [.drain] w := by
  have hrun : runAgenda 2 [.front line] v = some w := by
    rw [runAgenda_cons, show perform (.front line) v = _ from h]
    exact runAgenda_one (task := .front line) (atFront_nil hchain)
  rw [settleEvent_of_run (runAgenda_mono 2 _ _ _ _ hrun (by decide)), eventEnd_empty hwait]

/-- A read QUEUED on a line. -/
def queuedRead (line : Line) : Context := ⟨.READ, line, .QUEUED, none, none, none⟩

/-- A state once a queued read has been forwarded (04 R68). -/
def readForwarded (u : HostTag) (line : Line) (tag : DownTag) (s : State) : State :=
  { s with
    contexts := tableSet s.contexts u.val ⟨.READ, line, .FORWARDED, none, none, some tag⟩
    dp := { s.dp with tracker := tableSet s.dp.tracker tag.val (entryNow s .FORWARD_READ (.context u) line) }
    downTx := s.downTx ++ [.read tag line] }

theorem hostAtFront_read {waited : Bool} (hc : contextOf v u = some (queuedRead line)) (hlet : letThrough v line)
    (hlink : v.dp.link = .UP) (hfree : lowestFree v tag) (hhand : waited = true ∨ v.dp.tagWait = []) :
    hostAtFront u (queuedRead line) waited v = (readForwarded u line tag v, []) := by
  rw [hostAtFront_access (c := queuedRead line) hlet rfl hlink hfree hhand, accessMemory_read rfl]
  exact congrArg (·, []) (forwardRead_of_context hc)

theorem atFront_read (hchain : chainOf v line = [.host u]) (hc : contextOf v u = some (queuedRead line))
    (hlet : letThrough v line) (hlink : v.dp.link = .UP) (hfree : lowestFree v tag) (hwait : v.dp.tagWait = []) :
    atFront line v = (readForwarded u line tag v, []) := by
  rw [atFront_host hchain hc rfl (by simp [hwait]), hostAtFront_read hc hlet hlink hfree (.inr hwait)]

/-! ## The first of two steps leaves the chain (04 R63) -/

/-- A state once the first of two requests on a line has ended. -/
def endedFirst (t u : HostTag) (c : Context) (st : HostStatus) (d : Option Data) (s : State) : State :=
  { s with
    contexts := tableErase s.contexts t.val
    lht := tableSet s.lht c.line.toNat [.host u]
    holds := withoutHold s t
    upTx := s.upTx ++ [⟨t, c.request.kind, st, d⟩] }

theorem endContext_first (hup : s.upLink = .UP) (hchain : chainOf s c.line = [.host t, .host u]) (htu : t ≠ u)
    (hwait : s.dp.tagWait = []) : endContext t c st d s = endedFirst t u c st d s := by
  have hlht : putChain s.lht c.line ((chainOf s c.line).filter fun x => x != .host t) =
      tableSet s.lht c.line.toNat [.host u] := by
    rw [hchain]
    simp [putChain, htu.symm]
  exact endContext_of_up hup rfl hlht rfl (filter_ne_of_not_mem (by simp [hwait])) st d

theorem leaveChain_orphan_first (hchain : chainOf s line = [.orphan tag, .host u]) :
    leaveChain line (.orphan tag) s = { s with lht := tableSet s.lht line.toNat [.host u] } := by
  rw [leaveChain, hchain]
  simp [putChain]

end

/-- Settles O36. -/
theorem stepsBehindReachTheFront : Obligations.StepsBehindReachTheFront := by
  rintro tag tag' t u line c e d s hheld hup hlink ⟨hwait, hidle⟩ htables htu he rfl hu hfree
  have hwf : tableWf s.lht = true := htables.2.2.2.1.1
  refine ⟨fun ho hp hc hr hcline hchain => ?_, fun ho hp hchain hmode => ?_⟩
  · intro ended
    let v := endedFirst t u c .OK (some d) (removeEntry tag s)
    have hexec : exec (.readReply tag (.OK d)) s = settleEvent [.front e.line] v := by
      rw [exec_readReply_matched hheld hlink he (by rw [hp]; rfl), readDone_forwarded (u := removeEntry tag s) ho hc hp]
      exact congrArg (settleEvent [.front e.line]) (endContext_first hup (hcline ▸ hchain) htu hwait)
    have hv : v = { ended with lht := tableSet s.lht e.line.toNat [.host u] } := by
      simp only [v, endedFirst, hcline, hr]
      rfl
    have hcu : contextOf v u = some (queuedRead e.line) := by
      have hne : u.val ≠ t.val := fun h => htu (Fin.ext h.symm)
      exact (tableGet_erase_other _ hne).trans hu
    have hchain' : chainOf v e.line = [.host u] := by rw [hv]; exact chainOf_tableSet rfl
    have hnowait : Step.host u ∉ v.dp.tagWait := by simp [v, endedFirst, hwait]
    have herase := tableErase_tableSet_same hwf e.line.toNat [Step.host u]
    refine ⟨fun hmode => ?_, fun hmode hhalted => ?_, fun hmode hrestoring => ?_⟩
    · have hlet : letThrough v e.line := letThrough_of_openOrEmpty (s := s) hmode
      rw [hexec, settleEvent_front_stops (atFront_read hchain' hcu hlet hlink hfree hwait) hwait, hv]
      exact settle_drain_idle hidle
    · have hfront : atFront e.line v = (endedAlone u (queuedRead e.line) .FENCED none v, [.front e.line]) := by
        rw [atFront_host hchain' hcu rfl hnowait,
          hostAtFront_fenced (s := v) (c := queuedRead e.line) hmode hhalted]
        exact congrArg (·, [Task.front e.line]) (endContext_alone hup (.inr hchain') hnowait)
      rw [hexec, settleEvent_front_ends hfront (chainOf_endedAlone (c := queuedRead e.line) (tableWf_set _ _ _ hwf)) hwait]
      refine (settle_drain_idle (s := endedAlone u (queuedRead e.line) .FENCED none v) hidle).trans ?_
      simp only [endedAlone, queuedRead, hv, herase]
      rfl
    · have hleft : putChain v.lht e.line ((chainOf v e.line).filter fun x => x != .host u) =
          tableErase s.lht e.line.toNat := by
        rw [hchain', ← herase, congrArg State.lht hv]
        simp [putChain]
      have hhold := holdRequest_of_context (s := v) hcu hleft rfl (filter_ne_of_not_mem hnowait)
      have hfront : atFront e.line v = (holdRequest u (queuedRead e.line) v, [.front e.line]) := by
        rw [atFront_host hchain' hcu rfl hnowait,
          hostAtFront_restoring (s := v) (c := queuedRead e.line) hmode hrestoring]
        rfl
      rw [hexec, settleEvent_front_ends hfront (by rw [hhold]; exact chainOf_tableErase hwf rfl) (by rw [hhold]; exact hwait),
        settle_drain_idle (by rw [hhold]; exact hidle), hhold]
      simp only [queuedRead, hv]
      rfl
  · let v : State := { removeEntry tag s with lht := tableSet s.lht e.line.toNat [.host u] }
    have hexec : exec (.writeReply tag .OK) s = settleEvent [.front e.line] v := by
      rw [exec_writeReply_matched hheld hlink he (by rw [hp]; rfl)]
      have hdone : writeDone tag e (removeEntry tag s) = (v, [.front e.line]) := by
        simp only [writeDone, ho, leaveChain_orphan_first (s := removeEntry tag s) hchain]
        rfl
      rw [hdone]
    have hlet : letThrough v e.line := letThrough_of_openOrEmpty (s := s) hmode
    rw [hexec, settleEvent_front_stops (v := v) (atFront_read (chainOf_tableSet rfl) hu hlet hlink hfree hwait) hwait]
    exact settle_drain_idle hidle

end Sys2Proof.Machine
end


section
/-! PROOFS. Freed tags handed to the steps that wait (07 R119; O37). -/

namespace Sys2Proof.Machine
open Sys2Proof.Safety

/-! ## No tag free (07 R117, R118) -/

section
variable {s w : State} {tag tag' : DownTag} {e : TrackerEntry}

theorem freeTag_eq_none_iff : freeTag s = none ↔
    ∀ g : DownTag, tableGet s.dp.tracker g.val ≠ none ∨ tableGet s.dp.quarantine g.val ≠ none := by
  simp only [freeTag, List.find?_eq_none, List.mem_finRange, true_imp_iff, Bool.and_eq_true, Option.isNone_iff_eq_none]
  exact forall_congr' fun g => not_and_or

theorem freeTag_none_of_not_lowest (h : ∀ g, ¬ lowestFree s g) : freeTag s = none :=
  Option.eq_none_iff_forall_ne_some.mpr fun g hg => h g ((freeTag_iff s g).mp hg)

/-- With no tag free, the one that a request's end frees is the lowest. -/
theorem lowestFree_removed (h : ∀ g, ¬ lowestFree s g) (hfree : lowestFree (removeEntry tag s) tag') : tag' = tag := by
  obtain ⟨htracker, hquarantine, -⟩ := hfree
  by_contra hne
  have hget : tableGet s.dp.tracker tag'.val = none :=
    (tableGet_erase_other _ fun hv => hne (Fin.ext hv)).symm.trans htracker
  rcases freeTag_eq_none_iff.mp (freeTag_none_of_not_lowest h) tag' with hg | hg
  · exact hg hget
  · exact hg hquarantine

/-- With no other tag free, the tag taken again leaves none. -/
theorem freeTag_none_of_retaken (h : ∀ g, ¬ lowestFree s g)
    (htracker : w.dp.tracker = tableSet (tableErase s.dp.tracker tag.val) tag.val e)
    (hquarantine : w.dp.quarantine = s.dp.quarantine) : freeTag w = none := by
  refine freeTag_eq_none_iff.mpr fun g => ?_
  rw [htracker, hquarantine]
  by_cases hg : g = tag
  · subst hg
    exact .inl (by rw [tableGet_set_same]; simp)
  · have hne : g.val ≠ tag.val := fun hv => hg (Fin.ext hv)
    rw [tableGet_set_other _ _ hne, tableGet_erase_other _ hne]
    exact freeTag_eq_none_iff.mp (freeTag_none_of_not_lowest h) g

end

/-! ## The steps that wait (07 R119) -/

section
variable {s v : State} {tag : DownTag} {t u : HostTag} {c : Context} {line : Line} {rest : List Step} {st : Step}
  {status : HostStatus} {d : Option Data}

theorem runAgenda_performs {n : Nat} {task : Task} {ts ts' : List Task} (h : perform task s = (v, ts')) :
    runAgenda (n + 1) (task :: ts) s = runAgenda n (ts' ++ ts) v := by
  rw [runAgenda_cons, h]

theorem handOutTags_none (hfree : freeTag v = none) : handOutTags v = (v, []) := by
  unfold handOutTags
  split
  next => rfl
  next => rw [if_pos (.inl hfree)]

theorem handOutTags_serves (hwait : v.dp.tagWait = st :: rest) (hlink : v.dp.link = .UP) (hfree : lowestFree v tag) :
    handOutTags v = ((serveStep st { v with dp := { v.dp with tagWait := rest } }).1,
      (serveStep st { v with dp := { v.dp with tagWait := rest } }).2 ++ [.drain, .handOut]) := by
  have hfree' : freeTag v ≠ none := by simp [(freeTag_iff v tag).mpr hfree]
  simp only [handOutTags, hwait, if_neg (not_or.mpr ⟨hfree', show v.dp.link ≠ .DOWN by simp [hlink]⟩)]

/-- The one waiting read takes the freed tag. -/
theorem settle_handOut_read (hidle : innermostState v ≠ some .DRAINING) (hwait : v.dp.tagWait = [.host u])
    (hlink : v.dp.link = .UP) (hfree : lowestFree v tag) (hc : contextOf v u = some (queuedRead line))
    (hlet : letThrough v line) :
    settle (eventEnd v) v = .next (readForwarded u line tag { v with dp := { v.dp with tagWait := [] } }) := by
  let v0 : State := { v with dp := { v.dp with tagWait := [] } }
  have hserve : serveStep (.host u) v0 = (readForwarded u line tag v0, []) := by
    simp only [serveStep, show contextOf v0 u = _ from hc]
    exact hostAtFront_read (v := v0) hc hlet hlink hfree (.inl rfl)
  have hhand : handOutTags v = (readForwarded u line tag v0, [.drain, .handOut]) := by
    rw [handOutTags_serves hwait hlink hfree, show ({ v with dp := { v.dp with tagWait := [] } } : State) = v0 from rfl, hserve]
    rfl
  rw [eventEnd_waiting (by simp [hwait])]
  refine settle_of_steps 4 ?_ (by decide)
  rw [runAgenda_performs (task := .drain) (judgeDrain_idle hidle), List.nil_append,
    runAgenda_performs (task := .handOut) hhand, List.append_nil,
    runAgenda_performs (task := .drain) (judgeDrain_idle (s := readForwarded u line tag v0) hidle), List.nil_append]
  exact runAgenda_one (task := .handOut) (handOutTags_nil (s := readForwarded u line tag v0) rfl)

/-- With no tag free the steps go on waiting. -/
theorem settle_eventEnd_none (hidle : innermostState v ≠ some .DRAINING) (hfree : freeTag v = none) :
    settle (eventEnd v) v = .next v := by
  by_cases hwait : v.dp.tagWait = []
  · rw [eventEnd_empty hwait, settle_drain_idle hidle]
  · rw [eventEnd_waiting hwait]
    refine settle_of_steps 2 ?_ (by decide)
    rw [runAgenda_performs (task := .drain) (judgeDrain_idle hidle), List.nil_append]
    exact runAgenda_one (task := .handOut) (handOutTags_none hfree)

/-- A placed restore step waits in front of the steps that wait (07 R119). -/
theorem restoreAtFront_waits {slot : Slot} {data : Data} {r : Record}
    (hrec : tableGet v.jr.records slot.toNat = some r) (hpay : r.payload = some data) (hlink : v.dp.link = .UP)
    (hfree : lowestFree v tag) (hwait : v.dp.tagWait ≠ []) :
    restoreAtFront slot false v = (waitFirst (.restore slot) v, []) := by
  have hfree' := (freeTag_iff v tag).mpr hfree
  have hpay' : payloadOf v slot = some data := by simp [payloadOf, hrec, hpay]
  simp [restoreAtFront, hlink, hfree', hpay', tagAtHand, hwait]

/-- A drain that completes a rollback while a request waits: the restore step takes the only free tag. -/
theorem settle_rollback_waiting {p : Epoch} {below : List Epoch} {r : Record} {data : Data} (hstack : v.ec.stack = p :: below)
    (hp : p.state = .DRAINING) (hset : drainSet v = []) (hpending : p.pending = some .ROLLBACK) (hbroken : p.broken = false)
    (hseq : v.ec.sequencer = .IDLE) (hrun : 1 ≤ p.runLength) (hrec : tableGet v.jr.records (v.jr.head - 1).toNat = some r)
    (hheld : r.state = .HELD) (hpay : r.payload = some data) (hchain : chainOf v r.line = []) (hlink : v.dp.link = .UP)
    (hfree : lowestFree v tag) (hwait : v.dp.tagWait = [.host u])
    (hnone : freeTag (writingBack (v.jr.head - 1) r data tag (startedRestore p below v)) = none) :
    settle (eventEnd v) v = .next (writingBack (v.jr.head - 1) r data tag (startedRestore p below v)) := by
  let s1 := startedRestore p below v
  let s2 := placedStep (v.jr.head - 1) r.line s1
  let s3 := waitFirst (.restore (v.jr.head - 1)) s2
  let s4 := writingBack (v.jr.head - 1) r data tag s1
  have htake : takeUpNewest s1 = (s2, [.front r.line]) := by
    rw [takeUp_held_of_stack (s := s1) ⟨rfl, rfl, hseq⟩ hrun hrec hheld,
      if_neg (show s1.dp.link ≠ .DOWN by simp [s1, startedRestore, hlink]),
      placeRestore_of_nil (s := s1) hchain]
    rfl
  have hfront : atFront r.line s2 = (s3, []) := by
    rw [atFront_restore (s := s2) (chainOf_tableSet rfl) rfl (show _ ∉ v.dp.tagWait by simp [hwait])]
    exact restoreAtFront_waits (v := s2) hrec hpay hlink hfree (show v.dp.tagWait ≠ [] by simp [hwait])
  have hhand : handOutTags s3 = (s4, [.drain, .handOut]) := by
    have hserve : serveStep (.restore (v.jr.head - 1)) s2 = (s4, []) := by
      rw [serveStep, if_pos (show s2.ec.sequencer = .PLACED _ from rfl),
        restoreAtFront_access (s := s2) hrec hpay hlink hfree (.inl rfl),
        issueRestore_of_record (s := s2) hrec]
      rfl
    exact (handOutTags_serves (v := s3) (tag := tag) rfl hlink hfree).trans
      (congrArg (fun done : Done => (done.1, done.2 ++ [Task.drain, Task.handOut])) hserve)
  have hidle : innermostState s4 ≠ some .DRAINING := by
    rw [innermostState_of_stack (s := s4) (show s4.ec.stack = restoringEpoch p :: below from rfl)]
    simp [restoringEpoch]
  rw [eventEnd_waiting (by simp [hwait])]
  refine settle_of_steps 6 ?_ (by decide)
  rw [runAgenda_performs (task := .drain)
      ((judgeDrain_performs hstack hp hset).trans (performPending_rollback hstack hpending hbroken)),
    List.singleton_append, runAgenda_performs (s := startedRestore p below v) (task := .takeUp) htake, List.singleton_append,
    runAgenda_performs (s := s2) (task := .front r.line) hfront, List.nil_append,
    runAgenda_performs (s := s3) (task := .handOut) hhand,
    List.append_nil, runAgenda_performs (task := .drain) (judgeDrain_idle hidle), List.nil_append]
  exact runAgenda_one (task := .handOut) (handOutTags_none hnone)

/-- A context that stood alone on its line ends, with steps of other lines waiting. -/
theorem settleEvent_endContext_waiting (hup : s.upLink = .UP) (hchain : chainOf s c.line = [.host t])
    (hwait : Step.host t ∉ s.dp.tagWait) (hw : tableWf s.lht = true) :
    settleEvent [.front c.line] (endContext t c status d s) =
      settle (eventEnd (endedAlone t c status d s)) (endedAlone t c status d s) := by
  rw [endContext_alone hup (.inr hchain) hwait]
  exact settleEvent_of_run (runAgenda_mono 1 _ _ _ _
    (runAgenda_one (task := .front c.line) (atFront_nil (chainOf_endedAlone hw))) (by decide))

/-- The drain set loses no more than the step of a request that ended (05 R80). -/
theorem mem_drainSet_of_ended (hcontexts : tableWf s.contexts = true) (htracker : tableWf s.dp.tracker = true)
    (hc : contextOf s t = some c) (hstate : c.state ≠ .SPACE_WAIT)
    (h : st ∈ drainSet (endedAlone t c status d (removeEntry tag s))) : st ∈ drainSet s ∧ st ≠ .host t := by
  let v := endedAlone t c status d (removeEntry tag s)
  have hgone : contextOf v t = none := tableGet_erase_same _ _ hcontexts
  have hkept : ∀ g, g ≠ t → contextOf v g = contextOf s g := fun g hg =>
    tableGet_erase_other _ fun hv => hg (Fin.ext hv)
  have hentry : ∀ g x, tableGet v.dp.tracker g = some x → tableGet s.dp.tracker g = some x := fun g x hg => by
    by_cases htag : g = tag.val
    · subst htag
      rw [show tableGet v.dp.tracker tag.val = none from tableGet_erase_same _ _ htracker] at hg
      exact absurd hg (by simp)
    · rwa [show tableGet v.dp.tracker g = _ from tableGet_erase_other _ htag] at hg
  have hlive : ∀ g x, contextOf v g = some x → g ≠ t ∧ contextOf s g = some x := fun g x hg => by
    have hne : g ≠ t := by
      rintro rfl
      rw [hgone] at hg
      exact absurd hg (by simp)
    exact ⟨hne, hkept g hne ▸ hg⟩
  obtain ⟨p, hp, before, behind, hsplit, hj, hbefore, hdrain⟩ := (drainSetMembers v st).mp h
  refine ⟨(drainSetMembers s st).mpr ⟨p, mem_tableErase hp, before, behind, hsplit, hj, fun x hx hspace => ?_, ?_⟩, ?_⟩
  · obtain ⟨g, x', rfl, hg, hs⟩ := hspace
    have hne : g ≠ t := by
      rintro rfl
      rw [hc] at hg
      exact hstate (Option.some.inj hg ▸ hs)
    exact hbefore _ hx ⟨g, x', rfl, (hkept g hne).trans hg, hs⟩
  · rcases hdrain with ⟨g, x', m, d', rfl, hg, hrest⟩ | ⟨g, x', rfl, hg, hrest⟩
    · exact .inl ⟨g, x', m, d', rfl, (hlive g x' hg).2, hrest⟩
    · exact .inr ⟨g, x', rfl, hentry _ _ hg, hrest⟩
  · rintro rfl
    rcases hdrain with ⟨g, x', m, d', hst, hg, -⟩ | ⟨g, x', hst, -⟩
    · exact (hlive g x' hg).1 (Step.host.inj hst).symm
    · exact absurd hst (by simp)

end

/-- Settles O37. -/
theorem freedTagsAreHandedOut : Obligations.FreedTagsAreHandedOut := by
  intro tag tag' t u line line' d s hheld hup hlink htables htu hlines hwait hu hchainu hfree
  have hwf : tableWf s.lht = true := htables.2.2.2.1.1
  have hne : u.val ≠ t.val := fun h => htu (Fin.ext h.symm)
  have hnowait : Step.host t ∉ s.dp.tagWait := by simp [hwait, htu]
  refine ⟨fun c e hidle hmode he heline ho hp hc hr hcline hchain => ?_,
    fun m d' slot old r x hidle hmode he hc hr hwatch hnone => ?_,
    fun m d' old slot r e rest he ho hp heline hc hchain hnone p hstack hdraining hpending hbroken
      hrun hseq hset hrec hheldr hpayr hchainr => ?_⟩
  · subst heline
    let v := endedAlone t c .OK (some d) (removeEntry tag s)
    have hexec : exec (.readReply tag (.OK d)) s = settle (eventEnd v) v := by
      rw [exec_readReply_matched hheld hlink he (by rw [hp]; rfl), readDone_forwarded (u := removeEntry tag s) ho hc hp,
        ← hcline]
      exact settleEvent_endContext_waiting (s := removeEntry tag s) hup (hcline ▸ hchain) hnowait hwf
    have hcu : contextOf v u = some (queuedRead line') := (tableGet_erase_other _ hne).trans hu
    rw [hexec, settle_handOut_read (v := v) hidle hwait hlink hfree hcu (letThrough_of_openOrEmpty (s := s) hmode)]
    simp only [v, endedAlone, hcline, hr]
    rfl
  · obtain rfl := (lowestFree_removed hnone hfree).symm
    let w := captureHeld slot d r (removeEntry tag s)
    have hfree' : freeTag w = some tag := (freeTag_iff w tag).mpr hfree
    have hforward := forwardWrite_of_context (t := t) (line := line) (tag := tag) (m := m) (d := d') (s := w) hc
    have hrun : runAgenda 1 [.shown line m d'] (forwardWrite t line m d' tag w) = some (forwardWrite t line m d' tag w) :=
      runAgenda_one (task := .shown line m d') (showWrite_unwatched (by rw [hforward]; exact hwatch))
    have hexec : exec (.readReply tag (.OK d)) s = .next (forwardWrite t line m d' tag w) := by
      rw [exec_readReply_matched hheld hlink he rfl, readDone_captured (s := removeEntry tag s) rfl rfl hc rfl rfl hr hfree',
        settleEvent_of_run (runAgenda_mono 1 _ _ _ _ hrun (by decide))]
      rw [hforward]
      exact settle_eventEnd_none hidle (freeTag_none_of_retaken (s := s) hnone rfl rfl)
    refine ⟨_, hexec, ?_⟩
    rw [hforward]
    rfl
  · obtain rfl := (lowestFree_removed hnone hfree).symm
    subst heline
    let v := endedAlone t ⟨.WRITE m d', e.line, .FORWARDED, slot, old, some tag⟩ .OK none (removeEntry tag s)
    have hexec : exec (.writeReply tag .OK) s = settle (eventEnd v) v := by
      rw [exec_writeReply_matched hheld hlink he (by rw [hp]; rfl), writeDone_forwarded (u := removeEntry tag s) ho hc]
      exact settleEvent_endContext_waiting (s := removeEntry tag s)
        (c := ⟨.WRITE m d', e.line, .FORWARDED, slot, old, some tag⟩)
        hup hchain hnowait hwf
    have hset' : drainSet v = [] := List.eq_nil_iff_forall_not_mem.mpr fun st hst => by
      obtain ⟨hmem, hst'⟩ := mem_drainSet_of_ended htables.2.2.1.1 htables.2.2.2.2.1.1 hc (by simp) hst
      exact hst' (by simpa [hset] using hmem)
    have hchainr' : chainOf v r.line = [] := by
      have hl : r.line ≠ e.line := fun h => by simp [h, hchain] at hchainr
      exact (chainOf_tableErase_other (s := s) (line := e.line) rfl hl).trans hchainr
    have hnone' : freeTag (writingBack (s.jr.head - 1) r d tag (startedRestore p rest v)) = none :=
      freeTag_none_of_retaken (s := s) hnone rfl rfl
    rw [hexec, settle_rollback_waiting (v := v) hstack hdraining hset' hpending hbroken hseq hrun hrec hheldr hpayr hchainr'
      hlink hfree hwait hnone']
    rw [← hwait]
    rfl

end Sys2Proof.Machine
end


section
/-! PROOFS. Waiting steps issued as commands of their own (04 R67 to R69, R72; 05 R91; O48). -/

namespace Sys2Proof.Machine
open Sys2Proof.Safety

section
variable {s v : State} {tag : DownTag} {t : HostTag} {c : Context} {line : Line} {rest : List Step} {x : Step}
  {tasks : List Task}

/-- A state with no step waiting for a tag. -/
def noneWaiting (s : State) : State := { s with dp := { s.dp with tagWait := [] } }

theorem stopWaiting_only (h : s.dp.tagWait = [x]) : stopWaiting x s = noneWaiting s := by
  simp [stopWaiting, h, noneWaiting]

theorem settleEvent_nil (hwait : v.dp.tagWait = []) : settleEvent [] v = settle [.drain] v := by
  rw [settleEvent_of_run (runAgenda_nil _ _), eventEnd_empty hwait]

theorem readyAtFront_of_front (hheld : s.held = false) (hq : c.state = .QUEUED)
    (hchain : chainOf s c.line = .host t :: rest) (hlink : s.dp.link = .UP) (hfree : lowestFree s tag)
    (hlet : letThrough s c.line) : readyAtFront s t c = true := by
  have hfree' := (freeTag_iff s tag).mpr hfree
  have hnot : ¬ (isJournalLine s c.line = true ∧
      (innermostState s = some .RESTORING ∨ innermostState s = some .HALTED)) := by
    rintro ⟨hj, h | h⟩
    · exact hlet.not_restoring ⟨hj, h⟩
    · exact hlet.not_halted ⟨hj, h⟩
  simpa [readyAtFront, hheld, hq, hchain, hlink, hfree', Classical.or_iff_not_imp_left] using hnot

/-- The only waiting request takes its tag and starts its access. -/
theorem accessNow_only (hwait : s.dp.tagWait = [.host t]) (h : hostAtFront t c true (noneWaiting s) = (v, []))
    (hnone : v.dp.tagWait = []) : accessNow t c s = settle [.drain] v := by
  simp only [accessNow, stopWaiting_only hwait, h]
  exact settleEvent_nil hnone

end

/-- Settles O48. -/
theorem waitingStepsAreIssued : Obligations.WaitingStepsAreIssued := by
  intro tag line rest s hheld hlink hfree
  refine ⟨fun t hwait hchain => ⟨fun henters hidle hc => ?_, fun m d k e r own hc hm hcalled hstate hslots => ?_⟩,
    fun slot c d hq hwait hidle hrec hline hpay hchain => ?_⟩
  · have hlet : letThrough s line := letThrough_of_entersChain henters
    have hready : readyAtFront s t (queuedRead line) = true := readyAtFront_of_front hheld rfl hchain hlink hfree hlet
    have hread : hostAtFront t (queuedRead line) true (noneWaiting s) = (readForwarded t line tag (noneWaiting s), []) :=
      hostAtFront_read (v := noneWaiting s) hc hlet hlink hfree (.inl rfl)
    have hexec : exec (.forwardReadIssue t) s = accessNow t (queuedRead line) s := by
      change execForwardReadIssue t s = _
      rw [execForwardReadIssue, show contextOf s t = some (queuedRead line) from hc]
      exact if_pos (by rw [hready]; rfl)
    rw [hexec, accessNow_only hwait hread rfl]
    exact settle_drain_idle hidle
  · obtain ⟨hk, hj, hstack, -⟩ := id hcalled
    let c : Context := ⟨.WRITE m d, line, .QUEUED, none, none, none⟩
    have hinner : innermostState s = some .OPEN ∨ innermostState s = some .DRAINING := by
      rw [innermostState_of_stack hstack]
      exact hstate.imp (congrArg some) (congrArg some)
    have hjournal : modeOf s line = .JOURNAL := by simpa [modeOf, hk] using hj
    have hlet : letThrough s line := .inr (by rcases hinner with h | h <;> simp [h])
    have hready : readyAtFront s t c = true := readyAtFront_of_front hheld rfl hchain hlink hfree hlet
    have hmask : emptyMask c.request = false := emptyMask_write hm
    have hreserve := reserve_of_context (s := noneWaiting s) (t := t) (c := c) (tag := tag) (line := line) (k := k)
      (own := own) hc hstack hslots
    have haccess : hostAtFront t c true (noneWaiting s) = (reserve t line k own e.sequence tag (noneWaiting s), []) := by
      rw [hostAtFront_access (s := noneWaiting s) (c := c) hlet hmask hlink hfree (.inl rfl)]
      exact accessMemory_captured (s := noneWaiting s) rfl hcalled hslots
    have hexec : exec (.captureDecision t) s = accessNow t c s := by
      change execCaptureDecision t s = _
      rw [execCaptureDecision, show contextOf s t = some c from hc]
      exact if_pos (by rw [hready, hmask]; rfl)
    rw [hexec, accessNow_only hwait haccess (by rw [hreserve]; rfl), hreserve]
    rcases hstate with hopen | -
    · refine settle_drain_idle ?_
      rw [innermostState_of_stack rfl]
      simp [hopen]
    · refine settle_drain_waits (drainSet_of_frontWrite (line := line) (t := t) ?_ hchain (tableGet_set_same _ _ _) rfl
        (.inl rfl))
      exact isJournalLine_iff.mpr hjournal
  · subst hline
    let v : State := noneWaiting s
    have hissue : restoreAtFront slot true v = (issueRestore slot c.line d tag v, []) :=
      restoreAtFront_access (s := v) hrec hpay hlink hfree (.inl rfl)
    have hfront : (chainOf s (recordLine s slot)).head? = some (.restore slot) ∧ s.dp.link = .UP ∧ freeTag s ≠ none :=
      ⟨by rw [recordLine_of_record hrec, hchain]; rfl, hlink, by simp [(freeTag_iff s tag).mpr hfree]⟩
    have hexec : exec .restoreWriteIssue s = settleEvent [] (issueRestore slot c.line d tag v) := by
      change execRestoreWriteIssue s = _
      simp only [execRestoreWriteIssue, hq, if_pos hfront, stopWaiting_only hwait,
        show restoreAtFront slot true (noneWaiting s) = _ from hissue]
    rw [hexec, issueRestore_of_record (s := v) hrec]
    refine (settleEvent_nil rfl).trans (settle_drain_idle ?_)
    change innermostState s ≠ _
    simp [hidle]

end Sys2Proof.Machine
end


section
/-! PROOFS. What a level-1 commit lets go on: a write in SPACE_WAIT, a held request (03 R48; 04 R61, R76; 05 R84; O43). -/

namespace Sys2Proof.Machine
open Sys2Proof.Safety

section
variable {s w v : State} {tag : DownTag} {t : HostTag} {c : Context} {line : Line} {e : Epoch} {x : Option Nat}
  {m : Mask} {d : Data} {n : Nat}

/-- A drain's completion whose operation lets something go. -/
theorem exec_drainCompletion_goes {r : List Epoch} {ts : List Task} (hstack : s.ec.stack = e :: r)
    (he : e.state = .DRAINING) (hset : drainSet s = []) (hperform : performPending e s = (w, ts))
    (h : runAgenda n ts w = some v) (hn : n + 1 ≤ Config.agendaBound) : exec .drainCompletion s = .next v := by
  change settle [.drain] s = _
  refine settle_of_steps (n + 1) ?_ hn
  rw [runAgenda_performs (task := .drain) ((judgeDrain_performs hstack he hset).trans hperform), List.append_nil, h]

theorem needsNoCapture_of_empty (h : s.ec.stack = []) : needsNoCapture s line := .inr (.inl h)

theorem letThrough_of_empty (h : s.ec.stack = []) : letThrough s line := letThrough_of_openOrEmpty (.inr (.inl h))

theorem innermostState_of_empty (h : s.ec.stack = []) : innermostState s = none := by simp [innermostState, innermost, h]

theorem entersChain_read_of_empty (h : s.ec.stack = []) : entersChain s line .READ := by
  unfold entersChain
  cases modeOf s line with
  | PASS => exact .inl rfl
  | FENCE => exact .inr (.inl ⟨rfl, rfl⟩)
  | JOURNAL => exact .inr (.inr ⟨rfl, .inl h⟩)

/-- A write in SPACE_WAIT. -/
def spaceWrite (m : Mask) (d : Data) (line : Line) : Context := ⟨.WRITE m d, line, .SPACE_WAIT, none, none, none⟩

/-- A write in SPACE_WAIT forwarded uncaptured at its retry. -/
def retried (t : HostTag) (line : Line) (m : Mask) (d : Data) (tag : DownTag) (s : State) : State :=
  { s with
    contexts := tableSet s.contexts t.val ⟨.WRITE m d, line, .FORWARDED, none, none, some tag⟩
    holds := withoutHold s t
    dp := { s.dp with tracker := tableSet s.dp.tracker tag.val (entryNow s .FORWARD_WRITE (.context t) line) }
    downTx := s.downTx ++ [.write tag line m d] }

theorem retrySpace_forwards (hstack : w.ec.stack = []) (hm : m ≠ 0) (hc : contextOf w t = some (spaceWrite m d line))
    (hchain : chainOf w line = [.host t]) (hfree : 1 ≤ freeCount w.jr) (htag : tagReady w tag) :
    retrySpace t true w = (retried t line m d tag w, [.shown line m d]) := by
  obtain ⟨hlink, hlowest, hwait⟩ := htag
  have hgate : (spaceWrite m d line).state = .SPACE_WAIT ∧
      (chainOf w (spaceWrite m d line).line).head? = some (.host t) ∧ (true = true → 1 ≤ freeCount w.jr) :=
    ⟨rfl, by rw [show (spaceWrite m d line).line = line from rfl, hchain]; rfl, fun _ => hfree⟩
  rw [retrySpace, hc]
  refine (if_pos hgate).trans ?_
  rw [hostAtFront_access (c := spaceWrite m d line) (letThrough_of_empty hstack) (emptyMask_write hm) hlink hlowest (.inr hwait),
    accessMemory_uncaptured rfl (needsNoCapture_of_empty hstack)]
  exact congrArg (·, [Task.shown line m d]) (forwardWrite_of_context hc)

theorem runAgenda_retry (hholds : w.holds = [⟨t, line, .SPACE, x⟩]) (hstack : w.ec.stack = []) (hm : m ≠ 0)
    (hwatch : unwatched w line m d) (hc : contextOf w t = some (spaceWrite m d line)) (hchain : chainOf w line = [.host t])
    (hfree : 1 ≤ freeCount w.jr) (htag : tagReady w tag) :
    runAgenda 5 (closingEnd true) w = some (retried t line m d tag w) := by
  let u := retried t line m d tag w
  have hspace : perform (.spaceRetries true) w = (w, [.retry t true]) := by simp [perform, heldFor, hholds]
  have hempty : u.holds = [] := by simp [u, retried, withoutHold, hholds]
  have hrelease : perform .holdRelease u = (u, []) := by simp [perform, heldFor, hempty]
  rw [closingEnd, runAgenda_performs hspace, List.singleton_append,
    runAgenda_performs (task := .retry t true) (retrySpace_forwards hstack hm hc hchain hfree htag), List.singleton_append,
    runAgenda_performs (s := u) (task := .shown line m d) (showWrite_unwatched hwatch), List.nil_append,
    runAgenda_performs hrelease]
  exact runAgenda_one (task := .drain) (judgeDrain_idle (by rw [innermostState_of_empty (s := u) hstack]; simp))

/-- A held read. -/
def heldRead (line : Line) : Context := ⟨.READ, line, .HELD, none, none, none⟩

/-- A state once a held read has left the hold list and re-entered its line's empty chain. -/
def reentered (t : HostTag) (line : Line) (s : State) : State :=
  { s with
    contexts := tableSet s.contexts t.val (queuedRead line)
    lht := tableSet s.lht line.toNat [.host t]
    holds := withoutHold s t }

theorem takeIntake_reenters (hstack : w.ec.stack = []) (hc : contextOf w t = some (heldRead line)) (hchain : chainOf w line = []) :
    takeIntake t (leaveHolds t w) = (reentered t line w, [.front line]) := by
  let v := leaveHolds t w
  have hcontexts := tableUpdate_of_get hc fun y => { y with state := .QUEUED }
  have hqueue : queueRequest t line v = reentered t line w := by
    have hlht : putChain w.lht line (chainOf w line ++ [Step.host t]) = tableSet w.lht line.toNat [.host t] := by
      rw [hchain]; simp [putChain]
    have hcontexts' : tableUpdate v.contexts t.val (fun y => { y with state := .QUEUED }) =
        tableSet w.contexts t.val (queuedRead line) := hcontexts
    simp only [queueRequest, updateContext, hcontexts']
    change { v with contexts := _, lht := putChain w.lht line (chainOf w line ++ [Step.host t]) } = _
    rw [hlht]
    rfl
  have hclassify : classify t (heldRead line) v = chainRequest t (heldRead line) v :=
    classify_entersChain (entersChain_read_of_empty (s := v) hstack)
  simp only [takeIntake, show contextOf (leaveHolds t w) t = some (heldRead line) from hc]
  exact hclassify.trans (congrArg (·, [Task.front line]) hqueue)

theorem runAgenda_release (hholds : w.holds = [⟨t, line, .OPERATION, x⟩]) (hstack : w.ec.stack = [])
    (hc : contextOf w t = some (heldRead line)) (hchain : chainOf w line = []) (htag : tagReady w tag) :
    runAgenda 6 (closingEnd true) w = some (readForwarded t line tag (reentered t line w)) := by
  obtain ⟨hlink, hlowest, hwait⟩ := htag
  let u := reentered t line w
  have hspace : perform (.spaceRetries true) w = (w, []) := by simp [perform, heldFor, hholds]
  have hrelease : perform .holdRelease w = (w, [.reenter t]) := by simp [perform, heldFor, hholds]
  have hreenter : perform (.reenter t) w = (leaveHolds t w, [.intake t]) := by simp [perform, releaseHeld, hholds]
  have hfront : atFront line u = (readForwarded t line tag u, []) :=
    atFront_read (chainOf_tableSet rfl) (tableGet_set_same _ _ _) (letThrough_of_empty (s := u) hstack) hlink hlowest hwait
  rw [closingEnd, runAgenda_performs hspace, List.nil_append, runAgenda_performs hrelease, List.singleton_append,
    runAgenda_performs hreenter, List.singleton_append,
    runAgenda_performs (task := .intake t) (takeIntake_reenters hstack hc hchain), List.singleton_append,
    runAgenda_performs (s := u) (task := .front line) hfront, List.nil_append]
  exact runAgenda_one (task := .drain)
    (judgeDrain_idle (by rw [innermostState_of_empty (s := readForwarded t line tag u) hstack]; simp))

end

/-- Settles O43. -/
theorem commitsReleaseWhatWaits : Obligations.CommitsReleaseWhatWaits := by
  intro e t line tag x s hstack he hp hset hrun hring hwater hconfig htag
  let w : State := { afterRelease (eligibleAfter s) e [] s with eq := posted s .COMMITTED (some e.sequence) none 0 }
  have hperform : performPending e s = (w, closingEnd true) := by
    have hsome : (e.runLength != 0) = true := by simpa using Nat.ne_of_gt hrun
    simp only [performPending, hp, hstack, hsome, commitOuter_of_stack hring hwater hstack, w]
  have hjr : w.jr = ⟨s.jr.head, s.jr.head, false, w.jr.records, true⟩ :=
    afterRelease_jr_outer (pass := eligibleAfter s) hring hconfig hstack
  have hfree : 1 ≤ freeCount w.jr := by
    have hmore : freeCount w.jr = freeCount s.jr + e.runLength := freeCount_released hring hstack
    omega
  have hempty : ∀ {r : HoldReason}, s.holds = [⟨t, line, r, x⟩] → withoutHold s t = [] := fun h => by simp [withoutHold, h]
  refine ⟨fun m d hholds hm hwatch hc hchain => ?_, fun hholds hc hchain => ?_⟩
  · refine ⟨_, exec_drainCompletion_goes hstack he hset hperform
      (runAgenda_retry (w := w) hholds rfl hm hwatch hc hchain hfree htag) (by decide), ?_⟩
    rw [← hempty hholds, show (retried t line m d tag w).jr = w.jr from rfl, ← hjr]
    rfl
  · refine ⟨_, exec_drainCompletion_goes hstack he hset hperform
      (runAgenda_release (w := w) hholds rfl hc hchain htag) (by decide), ?_⟩
    rw [← tableSet_tableSet s.contexts t.val (queuedRead line), ← hempty hholds,
      show (readForwarded t line tag (reentered t line w)).jr = w.jr from rfl, ← hjr]
    rfl

end Sys2Proof.Machine
end


section
/-! PROOFS. The changes of the upstream link (07 R125, R126; O49). -/

namespace Sys2Proof.Machine
open Sys2Proof.Safety

/-- A store whose entries are dropped or changed under their own address. -/
theorem tableGet_filterMap {α β : Type} {g : Nat × α → Option (Nat × β)} (hg : ∀ p q, g p = some q → q.1 = p.1)
    {k : Nat} :
    ∀ t : Table α, tableWf t = true →
      tableGet (t.filterMap g) k = (tableGet t k).bind fun v => (g (k, v)).map (·.2)
  | [], _ => rfl
  | (k', v) :: r, hw => by
    rw [tableWf_cons] at hw
    have ih := tableGet_filterMap hg (k := k) r hw.2
    rw [List.filterMap_cons]
    by_cases hk : k = k'
    · subst hk
      have hrest : tableGet r k = none := tableGet_none_of_lt hw.1
      rw [show tableGet ((k, v) :: r) k = some v from if_pos rfl, Option.bind_some]
      split
      next hnone => rw [ih, hrest, hnone]; rfl
      next q hsome =>
        rw [hsome]
        exact if_pos (hg _ _ hsome).symm
    · simp only [tableGet, if_neg hk]
      split
      next => exact ih
      next q hsome => exact (if_neg fun h => hk (h.trans (hg _ _ hsome))).trans ih

section
variable {s u : State} {line : Line}

theorem chainOf_orphaned (hw : tableWf s.lht = true) (hu : u.lht = s.lht.filterMap (orphanChain s)) :
    chainOf u line = (chainOf s line).filterMap (orphanStep s) := by
  simp only [chainOf, hu, tableGet_filterMap (fun p q hq => (orphanChain_some hq).1) s.lht hw]
  rcases tableGet s.lht line.toNat with - | c
  · rfl
  · rcases hsteps : c.filterMap (orphanStep s) with - | ⟨st, rest⟩ <;> simp [orphanChain, hsteps]

theorem exec_upstreamLinkDown_lost (hheld : s.held = false) (hup : s.upLink = .UP)
    (hidle : innermostState s ≠ some .DRAINING) :
    exec .upstreamLinkDown s = .next (loseUpstream (indicate false false s)) := by
  change execUpstreamLinkDown s = _
  rw [execUpstreamLinkDown, if_neg (by simp [hheld, hup])]
  exact settle_drain_idle hidle

end

/-- Settles O49. -/
theorem upstreamLinkChanges : Obligations.UpstreamLinkChanges := by
  intro s
  refine ⟨fun h => if_pos h, fun h => if_pos h, fun hheld hdown => if_neg (by simp [hheld, hdown]),
    fun hheld hup hidle htables => ?_⟩
  refine ⟨_, exec_upstreamLinkDown_lost hheld hup hidle, ?_, fun line => ?_, fun tag => ?_⟩
  · have hwaits : s.dp.tagWait.filter Step.isRestore = s.dp.tagWait.filter fun st => match st with
        | .restore _ => true
        | _ => false := by
      refine congrArg (List.filter · s.dp.tagWait) (funext fun st => ?_)
      cases st <;> rfl
    exact congrArg (fun l => { loseUpstream (indicate false false s) with
      dp := { (loseUpstream (indicate false false s)).dp with tagWait := l } }) hwaits
  · refine (chainOf_orphaned (s := s) htables.2.2.2.1.1 rfl).trans
      (congrArg (List.filterMap · (chainOf s line)) (funext fun st => ?_))
    cases st with
    | host t =>
      rcases hc : contextOf s t with - | c
      · simp [orphanStep, hc]
      · simp [orphanStep, hc, contextActive]
    | restore slot => rfl
    | orphan g => rfl
  · refine (tableGet_map s.dp.tracker (orphanEntry s) tag.val).trans (congrArg (Option.map · _) (funext fun e => ?_))
    unfold orphanEntry
    cases ho : e.owner with
    | context t =>
      rcases hc : contextOf s t with - | c
      · simp [hc]
      · by_cases hp : e.purpose = .CAPTURE_READ <;> simp [hc, hp]
    | sequencer => rfl
    | orphaned => rfl

end Sys2Proof.Machine
end


section
/-! PROOFS. Restore writes that fail: the epoch HALTED, a held request fenced (05 R95, R96; 07 R121, R122; O47). -/

namespace Sys2Proof.Machine
open Sys2Proof.Safety

section
variable {s u : State} {tag : DownTag} {t : HostTag} {k : Context} {c : Record} {slot : Slot} {e : Epoch} {r : List Epoch}
  {contexts : Table Context} {upTx : List HostReply} {x : Option Nat} {n : TrackerEntry} {cause : HaltCause}

/-- The entry actions of HALTED answer the one held request for a JOURNAL line FENCED (05 R96). -/
theorem enterHalted_one (hholds : s.holds = [⟨t, k.line, .OPERATION, x⟩]) (hlht : s.lht = []) (hwait : s.dp.tagWait = [])
    (hc : contextOf s t = some k) (hj : isJournalLine s k.line = true) (hup : s.upLink = .UP) :
    enterHalted s = { s with
      contexts := tableErase s.contexts t.val
      holds := []
      upTx := s.upTx ++ [⟨t, k.request.kind, .FENCED, none⟩] } := by
  have hheld : heldOnJournal s = [t] := by simp [heldOnJournal, hholds, hj]
  have hnil : chainOf s k.line = [] := by simp [chainOf, hlht, tableGet]
  have hended : endContext t k .FENCED none s = { s with
      contexts := tableErase s.contexts t.val
      holds := []
      upTx := s.upTx ++ [⟨t, k.request.kind, .FENCED, none⟩] } :=
    endContext_of_up (lht := s.lht) (holds := []) (waits := s.dp.tagWait) hup rfl (by rw [hnil, hlht]; rfl)
      (by simp [withoutHold, hholds]) (by simp [hwait]) _ _
  have hfirst : fenceAll (heldOnJournal s) s = endContext t k .FENCED none s := by
    rw [hheld]
    simp only [fenceAll, List.foldl_cons, List.foldl_nil, hc]
  have hinactive : inactiveOnJournal (endContext t k .FENCED none s) = [] := by
    rw [hended]
    simp [inactiveOnJournal, hlht]
  simp only [enterHalted, hfirst, hinactive]
  exact hended

/-- A failed restore: the epoch HALTED with its entry actions, HALTED posted (05 R95). -/
theorem failRestore_enters {waits : List Step} {holds : List HoldEntry} (hstack : s.ec.stack = e :: r)
    (hrec : tableGet s.jr.records slot.toNat = some c)
    (hlht : putChain s.lht c.line ((chainOf s c.line).filter fun y => y != .restore slot) = [])
    (hwaits : (s.dp.tagWait.filter fun y => y != .restore slot) = waits)
    (henter : enterHalted (haltedAt slot e r c [] waits s) =
      { haltedAt slot e r c [] waits s with contexts := contexts, holds := holds, upTx := upTx }) :
    failRestore cause slot s = { haltedAt slot e r c [] waits s with
      contexts := contexts
      holds := holds
      upTx := upTx
      eq := posted s .HALTED (some e.sequence) (some c.line) (slot.toNat + 4096 * cause.code) } := by
  rw [failRestore_eq, haltEpoch_of_stack hstack hrec hlht hwaits, recordLine_of_record hrec, henter]
  rfl

theorem failOwner_restore (ho : n.owner = .sequencer) (hq : u.ec.sequencer = .WRITING slot) :
    failOwner tag n cause u = failRestore cause slot u := by
  simp [failOwner, ho, hq]

/-- The requests that a halt answers FENCED here: none, or one. -/
def fencedAtHalt (fenced : Option (HostTag × Context)) (s : State) : Table Context × List HostReply :=
  match fenced with
  | none => (s.contexts, s.upTx)
  | some (t, k) => (tableErase s.contexts t.val, s.upTx ++ [⟨t, k.request.kind, .FENCED, none⟩])

theorem enterHalted_fenced {fenced : Option (HostTag × Context)} (hlht : s.lht = []) (hwait : s.dp.tagWait = [])
    (hup : s.upLink = .UP) (hnone : fenced = none → s.holds = [])
    (hsome : ∀ t k, fenced = some (t, k) → s.holds = [⟨t, k.line, .OPERATION, none⟩] ∧ contextOf s t = some k ∧
      isJournalLine s k.line = true) :
    enterHalted s = { s with contexts := (fencedAtHalt fenced s).1, holds := [], upTx := (fencedAtHalt fenced s).2 } := by
  match fenced with
  | none =>
    have hholds := hnone rfl
    rw [enterHalted_quiet hholds hlht, ← hholds]
    rfl
  | some (t, k) =>
    obtain ⟨hholds, hc, hj⟩ := hsome t k rfl
    exact enterHalted_one hholds hlht hwait hc hj hup

/-- A restore write fails with nothing else in flight: the event ends with the epoch HALTED. -/
theorem settleEvent_restoreFails {fenced : Option (HostTag × Context)} (hstack : s.ec.stack = e :: r)
    (hq : s.ec.sequencer = .WRITING slot) (hwait : s.dp.tagWait = []) (hrec : tableGet s.jr.records slot.toNat = some c)
    (hlht : s.lht = [(c.line.toNat, [.restore slot])]) (ho : n.owner = .sequencer) (hup : s.upLink = .UP)
    (hnone : fenced = none → s.holds = [])
    (hsome : ∀ t k, fenced = some (t, k) → s.holds = [⟨t, k.line, .OPERATION, none⟩] ∧ contextOf s t = some k ∧
      isJournalLine s k.line = true) :
    settleEvent [.front c.line] (failOwner tag n cause s) = .next { haltedAt slot e r c [] s.dp.tagWait s with
      contexts := (fencedAtHalt fenced s).1
      holds := []
      upTx := (fencedAtHalt fenced s).2
      eq := posted s .HALTED (some e.sequence) (some c.line) (slot.toNat + 4096 * cause.code) } := by
  have hchain : chainOf s c.line = [.restore slot] := by simp [chainOf, hlht, tableGet]
  have hgone : putChain s.lht c.line ((chainOf s c.line).filter fun y => y != .restore slot) = [] := by
    simp [hchain, hlht, putChain, tableErase]
  have henter := enterHalted_fenced (s := haltedAt slot e r c [] s.dp.tagWait s) (fenced := fenced) rfl hwait hup hnone hsome
  have hsame : fencedAtHalt fenced (haltedAt slot e r c [] s.dp.tagWait s) = fencedAtHalt fenced s := by
    rcases fenced with - | ⟨t, k⟩ <;> rfl
  rw [hsame] at henter
  rw [failOwner_restore ho hq, failRestore_enters hstack hrec hgone (by simp [hwait]) henter]
  let w : State := { haltedAt slot e r c [] s.dp.tagWait s with
    contexts := (fencedAtHalt fenced s).1
    holds := []
    upTx := (fencedAtHalt fenced s).2
    eq := posted s .HALTED (some e.sequence) (some c.line) (slot.toNat + 4096 * cause.code) }
  refine (settleEvent_front (s := w) rfl hwait).trans (settle_drain_idle ?_)
  rw [innermostState_of_stack (s := w) rfl]
  simp

end

/-- Settles O47. -/
theorem failedRestoresHaltTheEpoch : Obligations.FailedRestoresHaltTheEpoch := by
  intro e r tag line x c slot s hstack he hq hwait hrec hline hlht hentry hup fenced hnone hsome left halted
  subst hline
  let entry : TrackerEntry := ⟨.RESTORE_WRITE, .sequencer, c.line, x, none, none⟩
  have hleft : left = fencedAtHalt fenced s := by
    rcases fenced with - | ⟨t, k⟩ <;> rfl
  refine ⟨fun hheld hlink => ?_, fun hx => ?_⟩
  · have hfails := settleEvent_restoreFails (s := errorSeen tag entry s) (tag := tag) (n := entry) (cause := .ERROR)
      hstack hq hwait hrec hlht rfl hup hnone hsome
    refine (exec_errorReply_matched hheld hlink hentry).trans ((errorReply_eq (e := entry)).trans (hfails.trans ?_))
    simp only [halted, hleft]
    rfl
  · have hfails := settleEvent_restoreFails (s := timeoutSeen tag entry s) (tag := tag) (n := entry) (cause := .TIMEOUT)
      hstack hq hwait hrec hlht rfl hup hnone hsome
    refine (exec_downstreamTimeout_reached hentry hx).trans (hfails.trans ?_)
    simp only [halted, hleft]
    rfl

end Sys2Proof.Machine
end


section
/-! PROOFS. The changes of the downstream link (07 R127 to R129; O50). -/

namespace Sys2Proof.Machine
open Sys2Proof.Safety

/-! ## The steps of the loss (07 R128) -/

section
variable {s u w : State} {tag : DownTag} {t : HostTag} {c : Context} {e : TrackerEntry} {slot : Slot} {line : Line}
  {st : HostStatus} {d : Option Data}

/-- The state in which the loss of the downstream link fails what is in flight. -/
def lossSeen (s : State) : State :=
  { s with
    pins := { s.pins with downIndication := false }
    dp := { s.dp with link := .DOWN }
    eq := posted s .LINK_CHANGE none none 1 }

theorem loseDownstream_lossSeen : loseDownstream (indicate true false s) =
    failWrites (failWaiters (clearQuarantine (failEntries (lossSeen s)))) := rfl

theorem failEntries_nil (h : s.dp.tracker = []) : failEntries s = s := by simp [failEntries, h]

theorem failEntries_one (h : s.dp.tracker = [(tag.val, e)]) :
    failEntries s = failOwner tag e .LINK_DOWN (removeEntry tag s) := by
  have htag : Fin.ofNat 64 tag.val = tag := Fin.ext (Nat.mod_eq_of_lt tag.isLt)
  rw [failEntries, h, List.foldl_cons, List.foldl_nil, failEntry, htag]

theorem setTagWait_nil (h : s.dp.tagWait = []) : setTagWait [] s = s := by
  rw [setTagWait, ← h]

theorem failWaiters_nil (h : s.dp.tagWait = []) : failWaiters s = s := by
  simp only [failWaiters, waitersFailed, h]
  exact setTagWait_nil h

theorem failWaiters_host (h : s.dp.tagWait = [.host t]) (hc : contextOf s t = some c) :
    failWaiters s = setTagWait [] (endContext t c .ERROR none s) := by
  simp [failWaiters, waitersFailed, h, Step.isRestore, failWaiting, hc]

theorem failWaiters_restore (h : s.dp.tagWait = [.restore slot]) (hq : s.ec.sequencer = .PLACED slot) :
    failWaiters s = setTagWait [] (failRestore .LINK_DOWN slot s) := by
  have hwaiters : waitersFailed s = [.restore slot] := by rw [waitersFailed, h]; rfl
  simp only [failWaiters, hwaiters, List.foldl_cons, List.foldl_nil, failWaiting, if_pos hq]

/-- The host request that waits behind a placed restore step fails before it. -/
theorem failWaiters_both (h : s.dp.tagWait = [.restore slot, .host t]) (hc : contextOf s t = some c)
    (hended : endContext t c .ERROR none s = w) (hq : w.ec.sequencer = .PLACED slot) :
    failWaiters s = setTagWait [] (failRestore .LINK_DOWN slot w) := by
  have hwaiters : waitersFailed s = [.host t, .restore slot] := by rw [waitersFailed, h]; rfl
  simp only [failWaiters, hwaiters, List.foldl_cons, List.foldl_nil, failWaiting, hc, hended, if_pos hq]

theorem spaceHolds_none (h : ∀ x ∈ s.holds, x.reason = .OPERATION) : (s.holds.filter fun x => x.reason == .SPACE) = [] :=
  List.filter_eq_nil_iff.mpr fun x hx => by simp [h x hx]

theorem failWrites_none (h : ∀ x ∈ s.holds, x.reason = .OPERATION) : failWrites s = s := by
  rw [failWrites, heldFor, spaceHolds_none h, List.map_nil, List.foldl_nil]

theorem failWrites_one {x : Option Nat} (h : s.holds = [⟨t, line, .SPACE, x⟩]) (hc : contextOf s t = some c)
    (hstate : c.state = .SPACE_WAIT) : failWrites s = endContext t c .ERROR none s := by
  simp [failWrites, heldFor, h, failSpaceWait, hc, hstate]

theorem setTagWait_endContext (hup : s.upLink = .UP) (hchain : chainOf s c.line = [.host t]) :
    setTagWait [] (endContext t c st d s) = setTagWait [] (endedAlone t c st d s) := by
  have hlht : putChain s.lht c.line ((chainOf s c.line).filter fun x => x != .host t) = tableErase s.lht c.line.toNat := by
    rw [hchain]
    simp [putChain]
  rw [endContext_of_up hup rfl hlht rfl rfl]
  rfl

/-! ## How the event ends -/

theorem one_le_agendaBound : 1 ≤ Config.agendaBound := by decide

theorem runAgenda_fronts : ∀ lines : List Line, (∀ l ∈ lines, chainOf u l = []) →
    runAgenda lines.length (lines.map .front) u = some u
  | [], _ => rfl
  | l :: rest, h => by
    rw [List.map_cons, List.length_cons, runAgenda_performs (task := .front l) (atFront_nil (h l (List.mem_cons_self ..))),
      List.nil_append]
    exact runAgenda_fronts rest fun x hx => h x (List.mem_cons_of_mem _ hx)

theorem exec_downstreamLinkDown_fails (hheld : s.held = false) (hlink : s.dp.link = .UP)
    (h : failWrites (failWaiters (clearQuarantine (failEntries (lossSeen s)))) = u)
    (hlines : ∀ l ∈ linesFailed s, chainOf u l = []) (hlength : (linesFailed s).length ≤ Config.agendaBound)
    (hwait : u.dp.tagWait = []) : exec .downstreamLinkDown s = settle [.drain] u := by
  change execDownstreamLinkDown s = _
  rw [execDownstreamLinkDown, if_neg (by simp [hheld, hlink]), loseDownstream_lossSeen, h,
    settleEvent_of_run (runAgenda_mono _ _ _ _ _ (runAgenda_fronts _ hlines) hlength), eventEnd_empty hwait]

/-- The downstream port once its link is lost. -/
def lostPort : DownstreamPort := ⟨.DOWN, [], [], []⟩

theorem eq_lostPort {p : DownstreamPort} (hlink : p.link = .DOWN) (htracker : p.tracker = []) (hquarantine : p.quarantine = [])
    (hwait : p.tagWait = []) : p = lostPort := by
  cases p
  simp_all [lostPort]

end

/-! ## What the loss leaves -/

section
variable {s w : State} {tag : DownTag} {t : HostTag} {c : Context} {e : TrackerEntry}

/-- A state once the downstream link is lost, nothing else being in flight. -/
def linkLost (s : State) : State := { lossSeen s with dp := lostPort }

/-- One access in flight: what its failure leaves is what the event ends with. -/
theorem exec_downstreamLinkDown_entry (hheld : s.held = false) (hlink : s.dp.link = .UP) (hwait : s.dp.tagWait = [])
    (htracker : s.dp.tracker = [(tag.val, e)])
    (hfail : failOwner tag e .LINK_DOWN (removeEntry tag (lossSeen s)) = w)
    (hdp : w.dp = (removeEntry tag (lossSeen s)).dp) (hholds : ∀ x ∈ s.holds, x.reason = .OPERATION)
    (hsub : ∀ x ∈ w.holds, x ∈ s.holds) (hchain : chainOf w e.line = []) :
    exec .downstreamLinkDown s = settle [.drain] { w with dp := lostPort } := by
  have herased : tableErase s.dp.tracker tag.val = [] := by simp [htracker, tableErase]
  have hport : { w.dp with quarantine := [] } = lostPort := by
    rw [hdp]
    exact eq_lostPort rfl herased rfl hwait
  have hclear : clearQuarantine (failEntries (lossSeen s)) = { w with dp := lostPort } := by
    rw [failEntries_one (s := lossSeen s) htracker, hfail, clearQuarantine, hport]
  have hlines : linesFailed s = [e.line] := by simp [linesFailed, htracker, hwait, spaceHolds_none hholds]
  refine exec_downstreamLinkDown_fails hheld hlink ?_ (fun l hl => ?_) (hlines ▸ one_le_agendaBound) rfl
  · rw [hclear, failWaiters_nil rfl, failWrites_none (s := { w with dp := lostPort }) fun x hx => hholds x (hsub x hx)]
  · rw [hlines, List.mem_singleton] at hl
    subst hl
    exact hchain

/-- Nothing in flight. -/
theorem exec_downstreamLinkDown_idle (hheld : s.held = false) (hlink : s.dp.link = .UP) (hwait : s.dp.tagWait = [])
    (htracker : s.dp.tracker = []) (hholds : ∀ x ∈ s.holds, x.reason = .OPERATION) :
    exec .downstreamLinkDown s = settle [.drain] (linkLost s) := by
  have hclear : clearQuarantine (failEntries (lossSeen s)) = linkLost s := by
    rw [failEntries_nil (s := lossSeen s) htracker, clearQuarantine]
    exact congrArg (fun p => { lossSeen s with dp := p })
      (eq_lostPort (p := { s.dp with link := .DOWN, quarantine := [] }) rfl htracker rfl hwait)
  have hlines : linesFailed s = [] := by simp [linesFailed, htracker, hwait, spaceHolds_none hholds]
  refine exec_downstreamLinkDown_fails hheld hlink ?_ (by simp [hlines]) (by simp [hlines]) rfl
  rw [hclear, failWaiters_nil rfl, failWrites_none (s := linkLost s) hholds]

/-- One request waits, for a tag or for space: it is answered ERROR. -/
theorem exec_downstreamLinkDown_waiter (hheld : s.held = false) (hlink : s.dp.link = .UP) (hup : s.upLink = .UP)
    (htracker : s.dp.tracker = []) (hc : contextOf s t = some c) (hchain : chainOf s c.line = [.host t])
    (hw : tableWf s.lht = true)
    (hwaits : (s.dp.tagWait = [.host t] ∧ ∀ x ∈ s.holds, x.reason = .OPERATION) ∨
      (s.dp.tagWait = [] ∧ c.state = .SPACE_WAIT ∧ ∃ x, s.holds = [⟨t, c.line, .SPACE, x⟩])) :
    exec .downstreamLinkDown s = settle [.drain] (endedAlone t c .ERROR none (linkLost s)) := by
  let z := clearQuarantine (lossSeen s)
  have hlines : linesFailed s = [c.line] := by
    rcases hwaits with ⟨hwait, hholds⟩ | ⟨hwait, -, x, hholds⟩
    · simp [linesFailed, htracker, hwait, spaceHolds_none hholds, stepLine, hc]
    · simp [linesFailed, htracker, hwait, hholds]
  have hended : setTagWait [] (endContext t c .ERROR none z) = endedAlone t c .ERROR none (linkLost s) := by
    rw [setTagWait_endContext (s := z) hup hchain]
    exact congrArg (fun p => { endedAlone t c .ERROR none (linkLost s) with dp := p })
      (eq_lostPort (p := { s.dp with link := .DOWN, quarantine := [], tagWait := [] }) rfl htracker rfl rfl)
  have hfails : failWrites (failWaiters z) = endedAlone t c .ERROR none (linkLost s) := by
    rcases hwaits with ⟨hwait, hholds⟩ | ⟨hwait, hstate, x, hholds⟩
    · rw [failWaiters_host (s := z) hwait hc, hended]
      exact failWrites_none fun x hx => hholds x (List.mem_filter.mp hx).1
    · rw [failWaiters_nil (s := z) hwait, failWrites_one (s := z) hholds hc hstate, ← hended]
      refine (setTagWait_nil ?_).symm
      rw [endContext_alone (s := z) hup (.inr hchain) (show _ ∉ s.dp.tagWait by simp [hwait])]
      exact hwait
  refine exec_downstreamLinkDown_fails hheld hlink ?_ (fun l hl => ?_) (hlines ▸ one_le_agendaBound) rfl
  · rw [failEntries_nil (s := lossSeen s) htracker, hfails]
  · rw [hlines, List.mem_singleton] at hl
    subst hl
    exact chainOf_endedAlone (s := linkLost s) hw

end

/-! ## A restore step in flight or waiting (05 R91, R95) -/

section
variable {s w z : State} {tag : DownTag} {t : HostTag} {c : Record} {k : Context} {e : Epoch} {r : List Epoch} {slot : Slot}

/-- The epoch HALTED by the loss, its step the only one on any chain. -/
def haltedByLoss (slot : Slot) (e : Epoch) (r : List Epoch) (c : Record) (s : State) : State :=
  { s with
    ec := { s.ec with stack := { e with state := .HALTED } :: r, sequencer := .IDLE }
    jr := { s.jr with records := tableSet s.jr.records slot.toNat { c with state := .HELD } }
    lht := []
    dp := lostPort
    eq := posted s .HALTED (some e.sequence) (some c.line) (slot.toNat + 8192) }

theorem chainOf_of_noChains {l : Line} (h : w.lht = []) : chainOf w l = [] := by simp [chainOf, h, tableGet]

theorem failRestore_lost {waits : List Step} (hstack : s.ec.stack = e :: r) (hrec : tableGet s.jr.records slot.toNat = some c)
    (hlht : s.lht = [(c.line.toNat, [.restore slot])]) (hwaits : (s.dp.tagWait.filter fun y => y != .restore slot) = waits)
    (hholds : s.holds = []) : failRestore .LINK_DOWN slot s = { haltedByLoss slot e r c s with
      dp := { s.dp with tagWait := waits } } := by
  have hchain : chainOf s c.line = [.restore slot] := by simp [chainOf, hlht, tableGet]
  have hgone : putChain s.lht c.line ((chainOf s c.line).filter fun y => y != .restore slot) = [] := by
    simp [hchain, hlht, putChain, tableErase]
  exact failRestore_quiet .LINK_DOWN hstack hrec hgone hwaits hholds

theorem exec_downstreamLinkDown_halts (hheld : s.held = false) (hlink : s.dp.link = .UP)
    (hlength : (linesFailed s).length ≤ Config.agendaBound) {v : State} (hv : v.holds = [])
    (h : failWaiters (clearQuarantine (failEntries (lossSeen s))) = haltedByLoss slot e r c v) :
    exec .downstreamLinkDown s = .next (haltedByLoss slot e r c v) := by
  have hquiet : ∀ x ∈ (haltedByLoss slot e r c v).holds, x.reason = .OPERATION := by
    rw [show (haltedByLoss slot e r c v).holds = [] from hv]
    simp
  rw [exec_downstreamLinkDown_fails hheld hlink (by rw [h, failWrites_none hquiet])
    (fun l _ => chainOf_of_noChains rfl) hlength rfl]
  refine settle_drain_idle ?_
  rw [innermostState_of_stack (s := haltedByLoss slot e r c v) rfl]
  simp

end

section
variable {s : State} {tag : DownTag} {t : HostTag} {c : Record} {k : Context} {e : Epoch} {r : List Epoch} {slot : Slot}

/-- A restore write in flight. -/
theorem exec_downstreamLinkDown_writing {x : Nat} (hheld : s.held = false) (hlink : s.dp.link = .UP)
    (hstack : s.ec.stack = e :: r) (hrec : tableGet s.jr.records slot.toNat = some c) (hholds : s.holds = [])
    (hq : s.ec.sequencer = .WRITING slot) (hwait : s.dp.tagWait = [])
    (htracker : s.dp.tracker = [(tag.val, ⟨.RESTORE_WRITE, .sequencer, c.line, x, none, none⟩)])
    (hlht : s.lht = [(c.line.toNat, [.restore slot])]) :
    exec .downstreamLinkDown s = .next (haltedByLoss slot e r c (lossSeen s)) := by
  let v := removeEntry tag (lossSeen s)
  have herased : tableErase s.dp.tracker tag.val = [] := by simp [htracker, tableErase]
  have hlines : linesFailed s = [c.line] := by simp [linesFailed, htracker, hwait, hholds]
  refine (exec_downstreamLinkDown_halts (v := v) hheld hlink (hlines ▸ one_le_agendaBound) hholds ?_).trans rfl
  have hfail : failEntries (lossSeen s) = { haltedByLoss slot e r c v with dp := v.dp } := by
    rw [failEntries_one (s := lossSeen s) htracker, failOwner_restore (u := v) rfl hq,
      failRestore_lost (s := v) (waits := s.dp.tagWait) hstack hrec hlht (by simp [v, lossSeen, hwait]) hholds]
    rfl
  have hclear : clearQuarantine (failEntries (lossSeen s)) = haltedByLoss slot e r c v := by
    rw [hfail]
    exact congrArg (fun p => { haltedByLoss slot e r c v with dp := p })
      (eq_lostPort (p := { v.dp with quarantine := [] }) rfl herased rfl hwait)
  rw [hclear, failWaiters_nil rfl]

/-- A placed restore step that waits for a tag. -/
theorem exec_downstreamLinkDown_placed (hheld : s.held = false) (hlink : s.dp.link = .UP)
    (hstack : s.ec.stack = e :: r) (hrec : tableGet s.jr.records slot.toNat = some c) (hholds : s.holds = [])
    (hq : s.ec.sequencer = .PLACED slot) (hwait : s.dp.tagWait = [.restore slot]) (htracker : s.dp.tracker = [])
    (hlht : s.lht = [(c.line.toNat, [.restore slot])]) :
    exec .downstreamLinkDown s = .next (haltedByLoss slot e r c (lossSeen s)) := by
  let z := clearQuarantine (lossSeen s)
  have hlines : linesFailed s = [c.line] := by
    simp [linesFailed, htracker, hwait, hholds, stepLine, recordLine_of_record hrec]
  refine exec_downstreamLinkDown_halts (v := lossSeen s) hheld hlink (hlines ▸ one_le_agendaBound) hholds ?_
  rw [failEntries_nil (s := lossSeen s) htracker, failWaiters_restore (s := z) hwait hq,
    failRestore_lost (s := z) (waits := []) hstack hrec hlht (by simp [z, clearQuarantine, lossSeen, hwait]) hholds]
  exact congrArg (fun p => { haltedByLoss slot e r c (lossSeen s) with dp := p })
    (eq_lostPort (p := { z.dp with tagWait := [] }) rfl htracker rfl rfl)

/-- A placed restore step with a host request waiting behind it: the request is answered first. -/
theorem exec_downstreamLinkDown_both (hheld : s.held = false) (hlink : s.dp.link = .UP)
    (hstack : s.ec.stack = e :: r) (hrec : tableGet s.jr.records slot.toNat = some c) (hholds : s.holds = [])
    (hq : s.ec.sequencer = .PLACED slot) (hwait : s.dp.tagWait = [.restore slot, .host t]) (htracker : s.dp.tracker = [])
    (hup : s.upLink = .UP) (hk : contextOf s t = some k) (hchain : chainOf s k.line = [.host t])
    (hlht : tableErase s.lht k.line.toNat = [(c.line.toNat, [.restore slot])]) :
    exec .downstreamLinkDown s = .next { haltedByLoss slot e r c (lossSeen s) with
      contexts := tableErase s.contexts t.val
      upTx := s.upTx ++ [⟨t, k.request.kind, .ERROR, none⟩] } := by
  let z := clearQuarantine (lossSeen s)
  let w : State := { z with
    contexts := tableErase s.contexts t.val
    lht := [(c.line.toNat, [.restore slot])]
    dp := { z.dp with tagWait := [.restore slot] }
    upTx := s.upTx ++ [⟨t, k.request.kind, .ERROR, none⟩] }
  have hended : endContext t k .ERROR none z = w := by
    refine endContext_of_up (s := z) hup rfl ?_ (show withoutHold s t = s.holds by simp [withoutHold, hholds]) ?_ _ _
    · rw [show chainOf z k.line = [.host t] from hchain, ← hlht]
      simp [putChain, z, clearQuarantine, lossSeen]
    · simp [z, clearQuarantine, lossSeen, hwait]
  have hlines : (linesFailed s).length = 2 := by
    simp [linesFailed, htracker, hwait, hholds, stepLine, hk]
  refine (exec_downstreamLinkDown_halts (v := w) hheld hlink (hlines ▸ by decide) hholds ?_).trans rfl
  rw [failEntries_nil (s := lossSeen s) htracker, failWaiters_both (s := z) hwait hk hended hq,
    failRestore_lost (s := w) (waits := []) hstack hrec rfl (by simp [w]) hholds]
  exact congrArg (fun p => { haltedByLoss slot e r c w with dp := p })
    (eq_lostPort (p := { w.dp with tagWait := [] }) rfl htracker rfl rfl)

end

/-- Settles O50. -/
theorem downstreamLinkChanges : Obligations.DownstreamLinkChanges := by
  intro s
  refine ⟨fun h => if_pos h, fun h => if_pos h, fun hheld hdown => if_neg (by simp [hheld, hdown]),
    fun hheld hlink hup htables => ?_⟩
  intro lost answered voided halted
  have hwf : tableWf s.lht = true := htables.2.2.2.1.1
  have hentry := fun {tag : DownTag} {e : TrackerEntry} {w : State} => exec_downstreamLinkDown_entry (tag := tag) (e := e)
    (w := w) hheld hlink
  refine ⟨fun hholds hwait => ⟨fun htracker hidle => ?_, fun tag t c e htracker ho hc hcline hchain =>
      ⟨fun hp => ?_, fun k slot old r hp hslot hold hrec hk hidle => ?_⟩,
    fun tag e htracker ho hchain hidle => ⟨fun hp => ?_, fun k slot old r hp hslot hold hrec hk => ?_⟩⟩,
    fun t c htracker hc hchain hidle hwaits => ?_, fun e below c slot hstack he hholds hrec hlht hstep => ?_,
    fun e below c slot t k hstack he hholds htracker hq hwait hrec hk hchain hlht => ?_⟩
  · exact (exec_downstreamLinkDown_idle hheld hlink hwait htracker hholds).trans (settle_drain_idle (s := lost) hidle)
  · let v := removeEntry tag (lossSeen s)
    have hended := endContext_alone (s := v) (st := .ERROR) (d := none) hup (.inr (hcline ▸ hchain))
      (show Step.host t ∉ s.dp.tagWait by simp [hwait])
    have hexec := hentry hwait htracker ((failOwner_forwarded (u := v) ho hc hp).trans hended) rfl hholds
      (fun x hx => (List.mem_filter.mp hx).1) (hcline ▸ chainOf_endedAlone (s := v) hwf)
    rw [endedAlone, hcline] at hexec
    exact endsIn_of_settle_drain (u := answered t e.line c.request.kind) hexec
  · let v := captureVoid slot e.line old k r (removeEntry tag (lossSeen s))
    have hended := endContext_alone (s := v) (st := .ERROR) (d := none) hup (.inr (hcline ▸ hchain))
      (show Step.host t ∉ s.dp.tagWait by simp [hwait])
    have hexec := hentry hwait htracker
      ((failOwner_captured (u := removeEntry tag (lossSeen s)) ho hc hp hslot hold hrec hk).trans hended) rfl hholds
      (fun x hx => (List.mem_filter.mp hx).1) (hcline ▸ chainOf_endedAlone (s := v) hwf)
    rw [endedAlone, hcline] at hexec
    exact hexec.trans (settle_drain_idle hidle)
  · let v := removeEntry tag (lossSeen s)
    have hfail : failOwner tag e .LINK_DOWN v = leaveChain e.line (.orphan tag) v := by
      rcases hp with hp | hp <;> simp [failOwner, ho, hp]
    exact (hentry hwait htracker (hfail.trans (leaveChain_alone (s := v) hchain)) rfl hholds (fun x hx => hx)
      (chainOf_tableErase hwf rfl)).trans (settle_drain_idle hidle)
  · let v := captureVoid slot e.line old k r (removeEntry tag (lossSeen s))
    have hfail := failOwner_orphanedCapture (tag := tag) (cause := .LINK_DOWN) (u := removeEntry tag (lossSeen s)) ho hp hslot
      hold hrec hk
    exact (hentry hwait htracker (hfail.trans (leaveChain_alone (s := v) hchain)) rfl hholds (fun x hx => hx)
      (chainOf_tableErase hwf rfl)).trans (settle_drain_idle hidle)
  · exact (exec_downstreamLinkDown_waiter hheld hlink hup htracker hc hchain hwf hwaits).trans (settle_drain_idle hidle)
  · rcases hstep with ⟨tag, x, hq, hwait, htracker⟩ | ⟨hq, hwait, htracker⟩
    · exact exec_downstreamLinkDown_writing hheld hlink hstack hrec hholds hq hwait htracker hlht
    · exact exec_downstreamLinkDown_placed hheld hlink hstack hrec hholds hq hwait htracker hlht
  · have hexec := exec_downstreamLinkDown_both hheld hlink hstack hrec hholds hq hwait htracker hup hk hchain hlht
    exact hexec.trans rfl

end Sys2Proof.Machine
end


section
/-! PROOFS. Action rules that fire at a forwarded write (08 R135 to R137; O51). -/

namespace Sys2Proof.Machine
open Sys2Proof.Safety

section
variable {s v : State} {line : Line} {m : Mask} {d : Data} {k : Fin 2} {op : EpochOp} {o : Origin} {e : Epoch}
  {r : List Epoch}

/-! ## A rule that fires (08 R136) -/

/-- Both entries written: what stood before is gone. -/
theorem set_zero_set_one {α : Type} (v w : Vector α 2) (a b : α) : (v.set 0 a).set 1 b = (w.set 0 a).set 1 b := by
  refine Vector.ext fun i hi => ?_
  interval_cases i <;> simp

theorem ruleOrigin_code (k : Fin 2) : (ruleOrigin k).code = 3 + k.val := by fin_cases k <;> rfl

/-- A rule once it has fired: its marks absent, disabled by its once flag. -/
def firedRule (q : Rule) : Rule :=
  { q with
    enabled := !q.once
    members := q.members.map fun x => ⟨x.watch, none⟩ }

theorem enabled_ruleShown (q : Rule) : (ruleShown s line m d q).enabled = q.enabled := by
  unfold ruleShown; split <;> rfl

theorem once_ruleShown (q : Rule) : (ruleShown s line m d q).once = q.once := by
  unfold ruleShown; split <;> rfl

theorem action_ruleShown (q : Rule) : (ruleShown s line m d q).action = q.action := by
  unfold ruleShown; split <;> rfl

/-- What a shown write has marked, a firing clears. -/
theorem unmarked_ruleShown (q : Rule) : (ruleShown s line m d q).unmarked = { q with
    members := q.members.map fun x => ⟨x.watch, none⟩ } := by
  have hmember : ∀ x : Member, (if watchMatches s.wu.watches[x.watch] line m d then
      (⟨x.watch, some (s.now + 1000 * q.window)⟩ : Member) else x).watch = x.watch := fun x => by split <;> rfl
  unfold ruleShown
  split
  · simp only [Rule.unmarked, List.map_map, Function.comp_def, hmember]
  · rfl

theorem disarmRule_shown (hv : v.wu.rules[k] = ruleShown s line m d s.wu.rules[k])
    (hfires : ruleFires s line m d s.wu.rules[k]) :
    disarmRule k v = { v with wu := { v.wu with rules := v.wu.rules.set k (firedRule s.wu.rules[k]) } } := by
  simp only [disarmRule, hv, unmarked_ruleShown, enabled_ruleShown, once_ruleShown, hfires.1, Bool.true_and]
  rfl

/-- A state once a rule has fired, before its request. -/
def toldFired (k : Fin 2) (line : Line) (s v : State) : State :=
  { v with
    wu := { v.wu with rules := v.wu.rules.set k (firedRule s.wu.rules[k]) }
    eq := posted v .RULE_FIRED (innermostSequence v) (some line) (k.val + 256 * s.wu.rules[k].action.code) }

theorem fireRule_shown (hv : v.wu.rules[k] = ruleShown s line m d s.wu.rules[k])
    (hfires : ruleFires s line m d s.wu.rules[k]) :
    fireRule k line v = (toldFired k line s v, [.request s.wu.rules[k].action (ruleOrigin k)]) := by
  have haction : v.wu.rules[k].action = s.wu.rules[k].action := by rw [hv, action_ruleShown]
  simp only [fireRule, haction, disarmRule_shown hv hfires]
  rfl

/-! ## Which rules fire (08 R135) -/

/-- A state once a write has been shown to the watch unit. -/
def shown (line : Line) (m : Mask) (d : Data) (s : State) : State := { s with wu := watchesShown s line m d }

theorem shown_rules : (shown line m d s).wu.rules[k] = ruleShown s line m d s.wu.rules[k] := by
  simp [shown, watchesShown]

theorem showWrite_fires {p : Fin 2 → Bool} (hp : ∀ i : Fin 2, p i = true ↔ ruleFires s line m d s.wu.rules[i]) :
    showWrite line m d s = (shown line m d s, ((List.finRange 2).filter p).map fun k => .fire k line) := by
  have hfiring : firingRules (matchingWatches s line m d) { s with wu := watchesShown s line m d } =
      (List.finRange 2).filter p :=
    List.filter_congr fun i _ => Bool.eq_iff_iff.mpr ((fires_iff i).trans (hp i).symm)
  rw [showWrite_eq, hfiring]
  rfl

theorem showWrite_one {j : Fin 2} (hj : j ≠ k) (hfires : ruleFires s line m d s.wu.rules[k])
    (hquiet : ¬ ruleFires s line m d s.wu.rules[j]) : showWrite line m d s = (shown line m d s, [.fire k line]) := by
  have hsingle : ∀ k : Fin 2, (List.finRange 2).filter (fun i => i == k) = [k] := by decide
  have hp : ∀ i : Fin 2, (i == k) = true ↔ ruleFires s line m d s.wu.rules[i] := fun i => by
    by_cases hi : i = k
    · subst hi
      exact iff_of_true (beq_self_eq_true i) hfires
    · obtain rfl : i = j := by omega
      exact iff_of_false (by simpa using hi) hquiet
  rw [showWrite_fires hp, hsingle]
  rfl

theorem showWrite_both (hfires : ∀ k : Fin 2, ruleFires s line m d s.wu.rules[k]) :
    showWrite line m d s = (shown line m d s, [.fire 0 line, .fire 1 line]) :=
  showWrite_fires (p := fun _ => true) fun i => iff_of_true rfl (hfires i)

/-! ## The rule's request (08 R137) -/

theorem runAgenda_fire {n : Nat} {ts : List Task} (hv : v.wu.rules[k] = ruleShown s line m d s.wu.rules[k])
    (hfires : ruleFires s line m d s.wu.rules[k]) : runAgenda (n + 1) (.fire k line :: ts) v =
      runAgenda n (.request s.wu.rules[k].action (ruleOrigin k) :: ts) (toldFired k line s v) := by
  rw [runAgenda_performs (task := .fire k line) (fireRule_shown hv hfires), List.singleton_append]

/-- A state once a rule's request has been refused. -/
def requestRefused (k : Fin 2) (op : EpochOp) (q : Reason) (s : State) : State :=
  { s with eq := posted s .REFUSED (innermostSequence s) none (op.code + 16 * (3 + k.val) + 256 * q.code) }

theorem runAgenda_request_refused {n : Nat} {ts : List Task} {q : Reason} (h : refusalOf v op = some q) :
    runAgenda (n + 1) (.request op (ruleOrigin k) :: ts) v = runAgenda n ts (requestRefused k op q v) := by
  have htake : takeRequest op (ruleOrigin k) v = (requestRefused k op q v, []) := by
    rw [takeRequest_refused h, ruleOrigin_code]
    rfl
  rw [runAgenda_performs (task := .request op (ruleOrigin k)) htake, List.nil_append]

theorem posted_of_cfg (hcfg : v.cfg = s.cfg) : posted v = posted { s with eq := v.eq } := by
  funext kind sequence x det
  simp only [posted, hcfg]

theorem refusalOf_empty (hstack : s.ec.stack = []) (hop : op ≠ .MRK) : refusalOf s op = some .EMPTY := by
  simp [refusalOf, innermostState_of_empty hstack, hstack, hop]

/-- The event queue once a rule has fired on an empty stack and its request has been refused. -/
def firedAndRefused (k : Fin 2) (line : Line) (s : State) (q : EventQueue) : EventQueue :=
  posted { s with
    eq := posted { s with eq := q } .RULE_FIRED none (some line) (k.val + 256 * s.wu.rules[k].action.code) }
    .REFUSED none none (s.wu.rules[k].action.code + 16 * (3 + k.val) + 768)

/-- A state once a rule has fired on an empty stack and its request has been refused. -/
def ruleDone (k : Fin 2) (line : Line) (s v : State) : State :=
  { v with
    wu := { v.wu with rules := v.wu.rules.set k (firedRule s.wu.rules[k]) }
    eq := firedAndRefused k line s v.eq }

theorem requestRefused_toldFired (hstack : v.ec.stack = []) (hcfg : v.cfg = s.cfg) :
    requestRefused k s.wu.rules[k].action .EMPTY (toldFired k line s v) = ruleDone k line s v := by
  have hsequence : ∀ x : State, x.ec.stack = [] → innermostSequence x = none := fun x hx => by
    simp [innermostSequence, innermost, hx]
  have hevents : (requestRefused k s.wu.rules[k].action .EMPTY (toldFired k line s v)).eq = firedAndRefused k line s v.eq := by
    rw [requestRefused, hsequence (toldFired k line s v) hstack, posted_of_cfg (v := toldFired k line s v) (s := s) hcfg,
      toldFired, hsequence v hstack, posted_of_cfg hcfg]
    rfl
  rw [ruleDone, ← hevents]
  rfl

theorem runAgenda_fire_empty {n : Nat} {ts : List Task} (hstack : v.ec.stack = []) (hcfg : v.cfg = s.cfg)
    (hv : v.wu.rules[k] = ruleShown s line m d s.wu.rules[k]) (hfires : ruleFires s line m d s.wu.rules[k])
    (hne : s.wu.rules[k].action ≠ .MRK) : runAgenda (n + 2) (.fire k line :: ts) v = runAgenda n ts (ruleDone k line s v) := by
  rw [runAgenda_fire hv hfires, runAgenda_request_refused (refusalOf_empty (s := toldFired k line s v) hstack hne),
    requestRefused_toldFired hstack hcfg]

/-- Both rules fire on an empty stack: rule 0's events come first (08 R136). -/
theorem runAgenda_fireBoth (hstack : v.ec.stack = []) (hcfg : v.cfg = s.cfg)
    (hrules : v.wu.rules = s.wu.rules.map (ruleShown s line m d)) (hfires : ∀ k : Fin 2, ruleFires s line m d s.wu.rules[k])
    (hne : ∀ k : Fin 2, s.wu.rules[k].action ≠ .MRK) :
    runAgenda 4 [.fire 0 line, .fire 1 line] v = some { v with
      wu := { v.wu with
        rules := (s.wu.rules.set 0 (firedRule s.wu.rules[(0 : Fin 2)])).set 1 (firedRule s.wu.rules[(1 : Fin 2)]) }
      eq := firedAndRefused 1 line s (firedAndRefused 0 line s v.eq) } := by
  have hv : v.wu.rules[(0 : Fin 2)] = ruleShown s line m d s.wu.rules[(0 : Fin 2)] := by simp [hrules]
  have hw : (ruleDone 0 line s v).wu.rules[(1 : Fin 2)] = ruleShown s line m d s.wu.rules[(1 : Fin 2)] := by
    simp [ruleDone, hrules]
  rw [runAgenda_fire_empty hstack hcfg hv (hfires 0) (hne 0),
    runAgenda_fire_empty (v := ruleDone 0 line s v) hstack hcfg hw (hfires 1) (hne 1), runAgenda_nil,
    ← set_zero_set_one v.wu.rules]
  rfl

end

/-- Settles O51. -/
theorem rulesFire : Obligations.RulesFire := by
  intro t line tag m d s ha hchain htag he hneed hm sent fired
  have hexec := fun {n : Nat} {u : State} => receiveRequest_written (n := n) (u := u) ha hchain htag he hneed hm
  refine ⟨fun k j hj hfires hquiet => ?_, fun hstack hboth => ?_⟩
  · intro action told
    have hshow := showWrite_one (s := sent) hj hfires hquiet
    have htold : toldFired k line sent (shown line m d sent) = told := rfl
    have hrun : ∀ {n : Nat} {u : State}, runAgenda n [.request action (ruleOrigin k)] told = some u →
        n + 4 ≤ Config.agendaBound → exec (.writeRequest t line m d) s = .next u := fun {n u} h hn => by
      refine hexec (n := n + 1) ?_ hn
      rw [show written t line m d tag s = sent from rfl, hshow]
      exact (runAgenda_fire (s := sent) (v := shown line m d sent) shown_rules hfires).trans h
    refine ⟨fun q hq => ?_, fun own rest hmark hopen hdepth hfree hcounter => ?_, fun e r p hp hstack hopen hset => ?_⟩
    · refine hrun (n := 1) ?_ (by decide)
      rw [runAgenda_request_refused (v := told) hq, runAgenda_nil]
      rfl
    · refine hrun (n := 1) ?_ (by decide)
      have hnone : refusalOf told .MRK = none := refusalOf_mark_none (s := told) hopen hdepth (by simp [told, sent, hfree]) hcounter
      have htake := takeRequest_mark (o := ruleOrigin k) hnone
      rw [openEpoch_eq (s := told) hfree, ruleOrigin_code] at htake
      rw [hmark]
      exact runAgenda_one (task := .request .MRK (ruleOrigin k)) htake
    · have hop : action ≠ .MRK ∧ pendingOf action = some p := by
        simp only [List.mem_cons, Prod.mk.injEq, List.not_mem_nil, or_false] at hp
        rcases hp with ⟨h, rfl⟩ | ⟨h, rfl⟩ | ⟨h, rfl⟩ <;> exact ⟨by rw [h]; decide, by rw [h]; rfl⟩
      have hnone : refusalOf told action = none :=
        refusalOf_closing_none (s := told) hop.1 hstack (.inl hopen) fun _ => htag.1
      have hclosing := beginClosing_of_stack (s := told) (o := ruleOrigin k) action hstack
      refine ⟨beginClosing action (ruleOrigin k) told, hrun (n := 2) ?_ (by decide), ?_⟩
      · rw [runAgenda_performs (task := .request action (ruleOrigin k)) (takeRequest_closing hop.1 hnone), List.append_nil]
        exact runAgenda_one (task := .drain) (judgeDrain_waits (by rwa [drainSet_beginClosing]))
      · refine hclosing.trans ?_
        simp only [drainingEpoch, hop.2, hopen, and_true]
        rfl
  · intro told
    have hne : ∀ k : Fin 2, s.wu.rules[k].action ≠ .MRK := fun k => (hboth k).2
    have hfires : ∀ k : Fin 2, ruleFires s line m d s.wu.rules[k] := fun k => (hboth k).1
    refine hexec (n := 4) ?_ (by decide)
    rw [show written t line m d tag s = sent from rfl, showWrite_both (s := sent) hfires]
    exact runAgenda_fireBoth (v := shown line m d sent) (s := s) hstack rfl rfl hfires hne

end Sys2Proof.Machine
end
